-- ==== Sys2Proof/Word.lean ====
section
/-! DEFINITION. The two value sizes of the block (spec/00_scope.md R10): a byte is 8 bits, a word 32 bits. -/

namespace Sys2Proof

/-- An unsigned 8-bit value, and an element of GF(2^8) (R10, R13). -/
abbrev Byte := BitVec 8

/-- An unsigned 32-bit value (R10). -/
abbrev Word := BitVec 32

/-- A fixed number of words: KEY, DIN, DOUT_W, EK, DK and the four columns of a block. -/
abbrev Words (n : Nat) := Vector Word n

end Sys2Proof
end

