-- ==== Sys2Proof/Config.lean ====
section
/-! DEFINITION. The parameters of the built block (spec/00_scope.md R7): constants without a body, so that nothing proved
about the machine rests on a value of them. None of them is state (spec/10_state.md R48). -/

namespace Sys2Proof

/-- A byte order of spec/00_scope.md R7. -/
inductive ByteOrder where
  | le
  | be
  deriving DecidableEq, Repr, Inhabited

/-- The two independently configurable orders of one built block (R7). -/
structure Build where
  /-- INTERNAL_ORDER: the byte order of internal words. -/
  internal : ByteOrder
  /-- EXTERNAL_ORDER: the byte order of the public block and key buffers. -/
  external : ByteOrder
  deriving DecidableEq, Repr

/-- INTERNAL_ORDER of this block: OPEN (R7, decision D6). Log 5. -/
opaque Config.internalOrder : ByteOrder

/-- EXTERNAL_ORDER of this block: OPEN (R7, decision D6). Log 5. -/
opaque Config.externalOrder : ByteOrder

/-- The number of the 4096-byte page at which the platform places the window: OPEN (R7, decision D2). Log 5. -/
opaque Config.basePage : Nat

/-- The BASE_ADDR of a block whose window is page number `page`: a 4096-byte-aligned host address (R7). -/
def Config.windowBase (page : Nat) : Nat := 4096 * page

/-- BASE_ADDR of this block (R7). -/
def Config.baseAddr : Nat := Config.windowBase Config.basePage

/-- The orders this block was built with. -/
def Config.build : Build := ⟨Config.internalOrder, Config.externalOrder⟩

end Sys2Proof
end

