-- ==== Sys2Proof/Machine/Lanes.lean ====
section
/-! DEFINITION. Byte lanes of internal words and the packing of bytes into bus words (spec/00_scope.md R11, R12), and the
marshaling between the two forms (spec/43_marshaling.md R300, R301). -/

namespace Sys2Proof.Machine

/-- The lowest bit of the byte at position `r` of four under byte order `o` (R11, R12): `8r` for LE, `24 - 8r` for BE. -/
def bytePos (o : ByteOrder) (r : Fin 4) : Nat :=
  match o with
  | .le => 8 * r.val
  | .be => 24 - 8 * r.val

/-- `lane(W, r)` of an internal word (R11). -/
def lane (o : ByteOrder) (W : Word) (r : Fin 4) : Byte := W.extractLsb' (bytePos o r) 8

/-- `mkword(a0, a1, a2, a3)`: the internal word whose lane r is a_r (R11). -/
def mkword (o : ByteOrder) (a0 a1 a2 a3 : Byte) : Word :=
  match o with
  | .le => a3 ++ a2 ++ a1 ++ a0
  | .be => a0 ++ a1 ++ a2 ++ a3

/-- `pack_O(b0, b1, b2, b3)`: four consecutive buffer bytes as a bus word (R12). -/
def pack (o : ByteOrder) (b0 b1 b2 b3 : Byte) : Word :=
  match o with
  | .le => b3 ++ b2 ++ b1 ++ b0
  | .be => b0 ++ b1 ++ b2 ++ b3

/-- Byte r of `unpack_O(v)`, the inverse of `pack_O` (R12). -/
def unpack (o : ByteOrder) (v : Word) (r : Fin 4) : Byte := v.extractLsb' (bytePos o r) 8

/-- `bswap32(v)` swaps the four bytes of v end for end (R12). -/
def bswap32 (v : Word) : Word :=
  pack .le (v.extractLsb' 24 8) (v.extractLsb' 16 8) (v.extractLsb' 8 8) (v.extractLsb' 0 8)

/-- `marshal_in(v)`: a bus-form word becomes an internal-form word (R300). -/
def marshalIn (b : Build) (v : Word) : Word :=
  if b.internal = b.external then v else bswap32 v

/-- `marshal_out(W)`: an internal-form word becomes a bus-form word (R301). -/
def marshalOut (b : Build) (W : Word) : Word :=
  if b.internal = b.external then W else bswap32 W

/-- The word with byte `a` in lane k and 0 in every other lane (R156, R157, R163). -/
def laneWord (o : ByteOrder) (k : Fin 4) (a : Byte) : Word :=
  mkword o (if k = 0 then a else 0) (if k = 1 then a else 0) (if k = 2 then a else 0) (if k = 3 then a else 0)

/-- The word whose lane r is lane `(r - k) mod 4` of W: the cyclic byte rotation of R152 and R155. -/
def rotLanes (o : ByteOrder) (k : Fin 4) (W : Word) : Word :=
  mkword o (lane o W (0 - k)) (lane o W (1 - k)) (lane o W (2 - k)) (lane o W (3 - k))

end Sys2Proof.Machine
end

