-- ==== Sys2Proof/Machine/State.lean ====
section
/-! DEFINITION. The state of the block (spec/10_state.md R33 to R45), its reset value (R51), and the reasons a step may
stop. -/

namespace Sys2Proof.Machine

/-- A step that may come next (spec/10_state.md R32). The order in which they come is free. -/
inductive Event where
  /-- The host reads `bytes` bytes at window offset `off` (spec/20_memory.md R80). -/
  | read (off : BitVec 12) (bytes : Nat)
  /-- The host writes `bytes` bytes of `value` at window offset `off` (spec/20_memory.md R81). -/
  | write (off : BitVec 12) (bytes : Nat) (value : Word)
  /-- The core's generation step, taken if it is enabled (spec/40_field_tables.md R175). -/
  | generate
  /-- The core's completion step, taken if it is enabled (spec/60_exceptions.md R335). -/
  | complete
  /-- The reset input (spec/70_reset_and_hazards.md R370). -/
  | reset
  deriving DecidableEq, Repr

/-- What the host gets back from an access (spec/20_memory.md R76, R80; spec/60_exceptions.md R348). A write gets data 0. -/
structure Reply where
  /-- The error response of a bus error (R76). -/
  error : Bool
  /-- The data of a read; 0 with an error (R76). -/
  data : Word
  deriving DecidableEq, Repr

/-- Every piece of state of the block, and two fields of the model's own: `events` and `reply`. -/
structure State where
  /-- READY: the tables are generated (R33). -/
  ready : Bool
  /-- BUSY: a command is in progress (R34). -/
  busy : Bool
  /-- DONE: the last accepted command has completed (R35). -/
  done : Bool
  /-- ERR: the result code of the last CMD write (R36). -/
  err : BitVec 4
  /-- ENC_VALID: an encrypt schedule is established (R37). -/
  encValid : Bool
  /-- DEC_VALID: a decrypt schedule is established (R38). -/
  decValid : Bool
  /-- NR: the round count of the current schedule (R39). -/
  nr : BitVec 4
  /-- CUR: the command word of the command in progress (R40). -/
  cur : Word
  /-- KEY[0..7]: the key material, bus form (R41). -/
  key : Words 8
  /-- DIN[0..3]: the input block, bus form (R42). -/
  din : Words 4
  /-- DOUT_W[0..3]: the output block, internal form (R43). -/
  doutW : Words 4
  /-- EK[0..59]: the encrypt schedule, internal form (R44). -/
  ek : Words 60
  /-- DK[0..59]: the decrypt schedule, internal form (R45). -/
  dk : Words 60
  /-- The model's own: the steps still to come, first one first; the order that R32 leaves free is this list. Log 2. -/
  events : List Event
  /-- The model's own: the answer to the last host access since reset. Log 4. -/
  reply : Option Reply
  deriving DecidableEq, Repr

/-- The state after reset: every element of the spec's state is 0 (R51, spec/70_reset_and_hazards.md R370). No event is
pending and no access has been answered (log 2, 4). -/
def State.reset : State where
  ready := false
  busy := false
  done := false
  err := 0
  encValid := false
  decValid := false
  nr := 0
  cur := 0
  key := Vector.replicate 8 0
  din := Vector.replicate 4 0
  doutW := Vector.replicate 4 0
  ek := Vector.replicate 60 0
  dk := Vector.replicate 60 0
  events := []
  reply := none

/-- The reasons for which the machine stops with a fault. -/
inductive Fault where
  /-- Raised by the completion step, and by a SETUP_KEY performed while BUSY = 1, when the command in progress is not one of
  the 11 legal ones. The spec gives this case no effect, because it never happens (spec/60_exceptions.md R335,
  spec/10_state.md R50(e)). SAFE: the model stops where the hardware never is. Log 7. -/
  | curNotLegal
  deriving DecidableEq, Repr

/-- The reasons for which the model refuses an instruction. -/
inductive Refusal where
  /-- Raised by `exec` for an instruction without a meaning. No arm of `exec` raises it. SAFE: the model stops. -/
  | notModelled (mnemonic : String)
  deriving DecidableEq, Repr

end Sys2Proof.Machine
end

