-- ==== Sys2Proof/Machine/Operands.lean ====
section
/-! DEFINITION. The operands a command reads from the data registers, marshalled into internal form
(spec/43_marshaling.md R306). -/

namespace Sys2Proof.Machine

/-- The Nk initial words of a key expansion, `marshal_in(KEY[j])` for j = 0..Nk-1 (spec/41_key_schedule.md R202). KEY words
from Nk on are not read (R306). -/
def keyWords (b : Build) (s : State) (nk : Nat) : List Word :=
  (s.key.toList.take nk).map (marshalIn b)

/-- The input block as four columns, `X[c] = marshal_in(DIN[c])` (spec/42_round_engine.md R250). -/
def inputBlock (b : Build) (s : State) : Words 4 := s.din.map (marshalIn b)

end Sys2Proof.Machine
end

