-- ==== Sys2Proof/Syntax.lean ====
section
/-! DEFINITION. The commands: one constructor per row of spec/opcode_table.json (spec/30_encoding.md R112). -/

namespace Sys2Proof

/-- A command with the operand fields its word carries (R111). The other operands are in the data registers (R110).
KEYBITS and MODE are held as the word gives them: the assembler may write any value (R120), and the values that are not
legal are refused by the command itself (R113, R114), which `WellFormed` says. -/
inductive Instr where
  /-- SETUP_KEY (OP = 1): the declared key length KEYBITS in bits and the MODE code. -/
  | setupKey (keybits : BitVec 9) (mode : BitVec 2)
  /-- ENCRYPT (OP = 2): no operand field. -/
  | encrypt
  /-- DECRYPT (OP = 3): no operand field. -/
  | decrypt
  deriving DecidableEq, Repr

end Sys2Proof
end

