-- ==== Sys2Proof/Decode.lean ====
section
/-! DEFINITION. The decoder of command words, total on any 32-bit value (spec/30_encoding.md R111 to R118), and the
encoder (R119, R120). -/

namespace Sys2Proof

/-- The result of R116's decoder. Illegal leads to ILLEGAL_CMD, Invalid to INVALID_PARAM (R116). -/
inductive Decoded where
  /-- OP is not 1, 2 or 3, or a reserved bit is set (R117). -/
  | illegal
  /-- A SETUP_KEY word with clean reserved bits, but MODE = 0 or a KEYBITS that is not 128, 192 or 256 (R117). -/
  | invalid
  /-- One of the 11 legal words (R119). -/
  | command (i : Instr)
  deriving DecidableEq, Repr

/-- OP, bits 3:0 (R111). -/
def opField (v : Word) : BitVec 4 := v.extractLsb' 0 4

/-- MODE, bits 5:4 (R111). -/
def modeField (v : Word) : BitVec 2 := v.extractLsb' 4 2

/-- The reserved bits 7:6 of a SETUP_KEY word (R111). -/
def reservedLow (v : Word) : BitVec 2 := v.extractLsb' 6 2

/-- KEYBITS, bits 16:8 (R111). -/
def keybitsField (v : Word) : BitVec 9 := v.extractLsb' 8 9

/-- The reserved bits 31:17 of a SETUP_KEY word (R111). -/
def reservedHigh (v : Word) : BitVec 15 := v.extractLsb' 17 15

/-- Bits 31:4, which must be 0 for ENCRYPT and DECRYPT (R115). -/
def upperBits (v : Word) : BitVec 28 := v.extractLsb' 4 28

/-- The form of the word (R111, R112, R115): `none` where R116 says Illegal, and otherwise the command with its operand
fields as they stand, their values not yet judged (reserved bits come before operand values, R116). -/
def decodeWord (v : Word) : Option Instr :=
  if opField v = 1 then
    if reservedLow v ≠ 0 ∨ reservedHigh v ≠ 0 then none
    else some (.setupKey (keybitsField v) (modeField v))
  else if opField v = 2 then
    if upperBits v ≠ 0 then none else some .encrypt
  else if opField v = 3 then
    if upperBits v ≠ 0 then none else some .decrypt
  else none

/-- The operand values a SETUP_KEY may have (R113, R114): MODE is not 0 and KEYBITS is 128, 192 or 256. -/
def setupKeyLegal (keybits : BitVec 9) (mode : BitVec 2) : Bool :=
  mode != 0 && (keybits == 128 || keybits == 192 || keybits == 256)

/-- Whether R116 accepts the operand values of a command. -/
def operandsLegal : Instr → Bool
  | .setupKey keybits mode => setupKeyLegal keybits mode
  | .encrypt => true
  | .decrypt => true

/-- The decoder of R116. -/
def decode (v : Word) : Decoded :=
  match decodeWord v with
  | none => .illegal
  | some i => if operandsLegal i then .command i else .invalid

/-- The command word: `KEYBITS << 8 | MODE << 4 | OP` (R120), every reserved bit 0 (R115). -/
def encode : Instr → Word
  | .setupKey keybits mode => 0#15 ++ keybits ++ 0#2 ++ mode ++ 1#4
  | .encrypt => 0#28 ++ 2#4
  | .decrypt => 0#28 ++ 3#4

/-- The command of the word whose low `nbits` bits are those of `w` and whose other bits are 0: every command is one
32-bit word (R110), with bit 0 the least significant (R10). -/
def decodeTableWord (nbits w : Nat) : Option Instr :=
  decodeWord (BitVec.ofNat 32 (w % 2 ^ nbits))

end Sys2Proof
end

