-- ==== Sys2Proof/Machine/Flags.lean ====
section
/-! DEFINITION. The codes of STATUS.ERR (spec/60_exceptions.md R331), the status flags a SETUP_KEY's MODE sets, and the
words STATUS and PARAMS read as (spec/20_memory.md R82, R83). -/

namespace Sys2Proof.Machine

/-- The causes for which a CMD write is rejected (R331). -/
inductive RejectCause where
  /-- OP is not 1, 2 or 3, or a reserved bit is set. -/
  | illegalCmd
  /-- SETUP_KEY with MODE = 0 or a KEYBITS that is not 128, 192 or 256. -/
  | invalidParam
  /-- ENCRYPT with ENC_VALID = 0, or DECRYPT with DEC_VALID = 0. -/
  | noSchedule
  /-- A CMD write while BUSY = 1. -/
  | busy
  /-- A CMD write while READY = 0. -/
  | notReady
  deriving DecidableEq, Repr

/-- The code a cause is recorded as (R331). -/
def rejectCode : RejectCause → BitVec 4
  | .illegalCmd => 1
  | .invalidParam => 2
  | .noSchedule => 3
  | .busy => 4
  | .notReady => 5

/-- ERR of an accepted command: NONE (R331). -/
def errNone : BitVec 4 := 0

/-- MODE bit 0 selects the encrypt schedule (R113: bit 4 of the command word). -/
def modeEncrypts (mode : BitVec 2) : Bool := mode.getLsbD 0

/-- MODE bit 1 selects the decrypt schedule (R113: bit 5 of the command word). -/
def modeDecrypts (mode : BitVec 2) : Bool := mode.getLsbD 1

/-- A flag as a word with the flag in bit 0. -/
def flagWord (flag : Bool) : Word := if flag then 1 else 0

/-- `STATUS_VALUE()` (R82). -/
def statusValue (s : State) : Word :=
  flagWord s.ready ||| flagWord s.busy <<< 1 ||| flagWord s.done <<< 2 ||| flagWord s.encValid <<< 3
    ||| flagWord s.decValid <<< 4 ||| s.err.setWidth 32 <<< 8 ||| s.nr.setWidth 32 <<< 16

/-- `PARAMS_VALUE()` (R83): bit 0 says that the internal order is BE, bit 1 that the external order is. -/
def paramsValue (b : Build) : Word :=
  flagWord (b.internal == .be) ||| flagWord (b.external == .be) <<< 1

end Sys2Proof.Machine
end

