-- ==== Sys2Proof/Machine/Ops.lean ====
section
/-! DEFINITION. The named operations over the state: rejecting, accepting and ending a command, writing the data
registers, generating the tables, resetting, and answering the host. -/

namespace Sys2Proof.Machine

/-- A step's outcome on this machine. -/
abbrev Result := Host.Outcome State Fault Refusal

/-- `raise Reject(code)`: the block's one exception. ERR takes the code and nothing else changes (spec/60_exceptions.md
R332). There is no trap entry and no return from it (R339, R340). -/
def reject (cause : RejectCause) (s : State) : State := { s with err := rejectCode cause }

/-- `Accept(v, d)` of an ENCRYPT or DECRYPT: the VALID bits stay (R334). -/
def accept (v : Word) (s : State) : State :=
  { s with cur := v, busy := true, done := false, err := errNone }

/-- `Accept(v, d)` of a SETUP_KEY: both VALID bits are cleared as well (R334). -/
def acceptSetup (v : Word) (s : State) : State :=
  { s with cur := v, busy := true, done := false, err := errNone, encValid := false, decValid := false }

/-- The end of every completion: `BUSY <- 0; DONE <- 1` (R335). -/
def finish (s : State) : State := { s with busy := false, done := true }

/-- The output block of an ENCRYPT or DECRYPT completion (spec/42_round_engine.md R261, R271). -/
def writeOutput (Z : Words 4) (s : State) : State := { s with doutW := Z }

/-- What a SETUP_KEY completion stores: both schedules, NR and the VALID bits its MODE asks for (spec/41_key_schedule.md
R211). -/
def storeSchedules (ek dk : Words 60) (nr : BitVec 4) (mode : BitVec 2) (s : State) : State :=
  { s with ek := ek, dk := dk, nr := nr, encValid := modeEncrypts mode, decValid := modeDecrypts mode }

/-- A host write to KEYj: dropped while BUSY = 1 (spec/20_memory.md R81). -/
def writeKey (j : Fin 8) (v : Word) (s : State) : State :=
  if s.busy then s else { s with key := s.key.set j v }

/-- A host write to DINc: dropped while BUSY = 1 (spec/20_memory.md R81). -/
def writeDin (c : Fin 4) (v : Word) (s : State) : State :=
  if s.busy then s else { s with din := s.din.set c v }

/-- TABLE_GEN: the tables are constants, so the step only sets READY (spec/40_field_tables.md R175; spec/10_state.md R46).
It is enabled only while READY = 0 (R176). -/
def tableGen (s : State) : State := if s.ready then s else { s with ready := true }

/-- Reset: every element of the spec's state takes its reset value, and a command in progress is abandoned
(spec/70_reset_and_hazards.md R370, R372). The steps still to come are not the block's state and stay. -/
def resetEvent (s : State) : State := { State.reset with events := s.events }

/-- The bus answers the host's access. -/
def answer (r : Reply) (s : State) : State := { s with reply := some r }

/-- `raise BusError()`: an error response, with data 0 for a read (spec/20_memory.md R76). -/
def busError : Reply := ⟨true, 0⟩

/-- The answer to a read that succeeds. -/
def readReply (v : Word) : Reply := ⟨false, v⟩

/-- The answer to a write that succeeds. -/
def writeReply : Reply := ⟨false, 0⟩

/-- The only defined access is 4 bytes at an offset with `off[1:0] = 0` (spec/20_memory.md R73 to R75). -/
def accessOk (off : BitVec 12) (bytes : Nat) : Bool := bytes == 4 && off.extractLsb' 0 2 == 0

/-- `CommandWrite(v)` (spec/60_exceptions.md R333): the state of the block is checked first, then the form of the word; then
the command itself, performed by `run`, checks its operand values and its schedule. -/
def commandWrite (run : Instr → State → Result) (v : Word) (s : State) : Result :=
  if !s.ready then .next (reject .notReady s)
  else if s.busy then .next (reject .busy s)
  else
    match decodeWord v with
    | none => .next (reject .illegalCmd s)
    | some i => run i s

/-- `Complete`: the command in progress, that of CUR, is performed by `run` (spec/60_exceptions.md R335). CUR holds a legal
word in every state a run reaches (spec/10_state.md R50(e)); otherwise the model stops (log 7). -/
def completeCommand (run : Instr → State → Result) (s : State) : Result :=
  match decode s.cur with
  | .command i => run i s
  | .illegal => .fault .curNotLegal
  | .invalid => .fault .curNotLegal

end Sys2Proof.Machine
end

