-- ==== Sys2Proof/Machine/Field.lean ====
section
/-! DEFINITION. The field GF(2^8), the power and log tables, the S-boxes and the round constants
(spec/40_field_tables.md R140 to R150). They are constants (spec/10_state.md R46). -/

namespace Sys2Proof.Machine

/-- `xtime(b)`, the product {02}·b (R141). -/
def xtime (b : Byte) : Byte := (b <<< 1) ^^^ (if b.getLsbD 7 then 0x1B else 0x00)

/-- The loop of R142 from the value `p`: each step records p and multiplies it by {03}, `p <- p ^ xtime(p)`. -/
def powLoop (p : Byte) : Nat → List Byte
  | 0 => []
  | n + 1 => p :: powLoop (p ^^^ xtime p) n

/-- The power table POW[0..255] under the generator {03} (R142). -/
def powTable : List Byte := powLoop 0x01 256

/-- `POW[i]`, for i in 0..255 (R142). -/
def pow (i : Nat) : Byte := powTable.getD i 0

/-- `LOG[x]` (R143): the i in 0..254 with `POW[i] = x`; LOG[1] = 0 and LOG[0] = 0 by the spec's choice. -/
def log (x : Byte) : Byte :=
  if x = 0 then 0 else BitVec.ofNat 8 ((powTable.take 255).idxOf x)

/-- `gmul(a, b)`, the field product (R145). -/
def gmul (a b : Byte) : Byte :=
  if a = 0 ∨ b = 0 then 0 else pow (((log a).toNat + (log b).toNat) % 255)

/-- `ginv(x)`, the multiplicative inverse, with the inverse of 0 defined as 0 (R146). -/
def ginv (x : Byte) : Byte := if x = 0 then 0 else pow (255 - (log x).toNat)

/-- `affine(x)`, the fixed GF(2) affine transform (R147; spec/90_conflicts.md C4). -/
def affine (x : Byte) : Byte :=
  x ^^^ x.rotateLeft 1 ^^^ x.rotateLeft 2 ^^^ x.rotateLeft 3 ^^^ x.rotateLeft 4 ^^^ 0x63

/-- `SBOX[x]` (R148). -/
def sbox (x : Byte) : Byte := affine (ginv x)

/-- SBOX[0..255] as a table. -/
def sboxTable : List Byte := (List.range 256).map fun i => sbox (BitVec.ofNat 8 i)

/-- `INVSBOX[y]`: the i with `SBOX[i] = y` (R149). -/
def invSbox (y : Byte) : Byte := BitVec.ofNat 8 (sboxTable.idxOf y)

/-- The loop of R150 from the value `p`: doubling, `p <- xtime(p)` (spec/90_conflicts.md C3). -/
def rconLoop (p : Byte) : Nat → List Byte
  | 0 => []
  | n + 1 => p :: rconLoop (xtime p) n

/-- The round constants RCON[0..31] (R150). -/
def rconTable : List Byte := rconLoop 0x01 32

/-- `RCON[j]`, for j in 0..31 (R150). -/
def rcon (j : Nat) : Byte := rconTable.getD j 0

end Sys2Proof.Machine
end

