-- ==== Sys2Proof/Machine/Tables.lean ====
section
/-! DEFINITION. The round tables and the word transforms, written in lanes, so that they hold under either internal order
(spec/40_field_tables.md R151 to R163). -/

namespace Sys2Proof.Machine

/-- `RCONW(j)`: the round constant in lane 0 (R163). -/
def rconW (o : ByteOrder) (j : Nat) : Word := mkword o (rcon j) 0 0 0

/-- `FT0[x]`, the forward round table, with s = SBOX[x] (R151). -/
def ft0 (o : ByteOrder) (x : Byte) : Word :=
  mkword o (gmul 0x02 (sbox x)) (sbox x) (sbox x) (gmul 0x03 (sbox x))

/-- `FTk[x]`: FT0 and its three cyclic byte rotations (R152). -/
def ft (o : ByteOrder) (k : Fin 4) (x : Byte) : Word := rotLanes o k (ft0 o x)

/-- `RT0[x]`, the inverse round table, with t = INVSBOX[x] (R154). -/
def rt0 (o : ByteOrder) (x : Byte) : Word :=
  mkword o (gmul 0x0E (invSbox x)) (gmul 0x09 (invSbox x)) (gmul 0x0D (invSbox x)) (gmul 0x0B (invSbox x))

/-- `RTk[x]`: RT0 and its three cyclic byte rotations (R155). -/
def rt (o : ByteOrder) (k : Fin 4) (x : Byte) : Word := rotLanes o k (rt0 o x)

/-- `FSk[x]`, the forward plain-substitution tables (R156). -/
def fs (o : ByteOrder) (k : Fin 4) (x : Byte) : Word := laneWord o k (sbox x)

/-- `RSk[x]`, the inverse plain-substitution tables (R157). -/
def rs (o : ByteOrder) (k : Fin 4) (x : Byte) : Word := laneWord o k (invSbox x)

/-- `SubWord(W)` (R158). -/
def subWord (o : ByteOrder) (W : Word) : Word :=
  mkword o (sbox (lane o W 0)) (sbox (lane o W 1)) (sbox (lane o W 2)) (sbox (lane o W 3))

/-- `RotWord(W)`: lane 0 takes lane 1 (R159). -/
def rotWord (o : ByteOrder) (W : Word) : Word :=
  mkword o (lane o W 1) (lane o W 2) (lane o W 3) (lane o W 0)

/-- Lane r of `MixColumn` of the column with bytes `a` (R160); index arithmetic is mod 4. -/
def mixLane (a : Fin 4 → Byte) (r : Fin 4) : Byte :=
  gmul 2 (a r) ^^^ gmul 3 (a (r + 1)) ^^^ a (r + 2) ^^^ a (r + 3)

/-- `MixColumn(W)`, the diffusion transform (R160). -/
def mixColumn (o : ByteOrder) (W : Word) : Word :=
  mkword o (mixLane (lane o W) 0) (mixLane (lane o W) 1) (mixLane (lane o W) 2) (mixLane (lane o W) 3)

/-- Lane r of `InvMixColumn` of the column with bytes `a` (R161). -/
def invMixLane (a : Fin 4 → Byte) (r : Fin 4) : Byte :=
  gmul 14 (a r) ^^^ gmul 11 (a (r + 1)) ^^^ gmul 13 (a (r + 2)) ^^^ gmul 9 (a (r + 3))

/-- `InvMixColumn(W)`, the inverse diffusion transform (R161). -/
def invMixColumn (o : ByteOrder) (W : Word) : Word :=
  mkword o (invMixLane (lane o W) 0) (invMixLane (lane o W) 1) (invMixLane (lane o W) 2)
    (invMixLane (lane o W) 3)

end Sys2Proof.Machine
end

