-- ==== Sys2Proof/Machine/Rounds.lean ====
section
/-! DEFINITION. The round functions and the two cipher functions on four internal-form words (spec/42_round_engine.md
R251 to R257). Column numbers are mod 4. -/

namespace Sys2Proof.Machine

/-- Word i of a schedule of 60 words. No command reads past word 59 in a state a run reaches; there this gives 0 (log 8). -/
def scheduleWord (k : Words 60) (i : Nat) : Word := k[i]?.getD 0

/-- Round key r of a schedule: the four words `4r .. 4r+3` (R201). -/
def roundKey (k : Words 60) (r : Nat) : Words 4 :=
  Vector.ofFn fun c => scheduleWord k (4 * r + c.val)

/-- Whitening: each column XORed with its round-key word (R255, R256). -/
def whiten (Y K : Words 4) : Words 4 := Vector.ofFn fun c => Y[c] ^^^ K[c]

/-- `FROUND(Y, K)`: one full forward round; lane k comes from word c + k (R251). -/
def fround (o : ByteOrder) (Y K : Words 4) : Words 4 :=
  Vector.ofFn fun c =>
    K[c] ^^^ ft o 0 (lane o Y[c] 0) ^^^ ft o 1 (lane o Y[c + 1] 1)
      ^^^ ft o 2 (lane o Y[c + 2] 2) ^^^ ft o 3 (lane o Y[c + 3] 3)

/-- `FFINAL(Y, K)`: the final forward round, without diffusion (R252). -/
def ffinal (o : ByteOrder) (Y K : Words 4) : Words 4 :=
  Vector.ofFn fun c =>
    K[c] ^^^ fs o 0 (lane o Y[c] 0) ^^^ fs o 1 (lane o Y[c + 1] 1)
      ^^^ fs o 2 (lane o Y[c + 2] 2) ^^^ fs o 3 (lane o Y[c + 3] 3)

/-- `RROUND(Y, K)`: one full inverse round; lane k comes from word c - k (R253). -/
def rround (o : ByteOrder) (Y K : Words 4) : Words 4 :=
  Vector.ofFn fun c =>
    K[c] ^^^ rt o 0 (lane o Y[c] 0) ^^^ rt o 1 (lane o Y[c - 1] 1)
      ^^^ rt o 2 (lane o Y[c - 2] 2) ^^^ rt o 3 (lane o Y[c - 3] 3)

/-- `RFINAL(Y, K)`: the final inverse round (R254). -/
def rfinal (o : ByteOrder) (Y K : Words 4) : Words 4 :=
  Vector.ofFn fun c =>
    K[c] ^^^ rs o 0 (lane o Y[c] 0) ^^^ rs o 1 (lane o Y[c - 1] 1)
      ^^^ rs o 2 (lane o Y[c - 2] 2) ^^^ rs o 3 (lane o Y[c - 3] 3)

/-- The state after the full rounds 1 .. r of `Cipher`, from the whitened state Y (R255). -/
def forwardRounds (o : ByteOrder) (ek : Words 60) (Y : Words 4) : Nat → Words 4
  | 0 => Y
  | r + 1 => fround o (forwardRounds o ek Y r) (roundKey ek (r + 1))

/-- `Cipher(EK, Nr, X)`: whitening, Nr - 1 full rounds, the final round (R255). -/
def cipher (o : ByteOrder) (ek : Words 60) (nr : Nat) (X : Words 4) : Words 4 :=
  ffinal o (forwardRounds o ek (whiten X (roundKey ek 0)) (nr - 1)) (roundKey ek nr)

/-- The full rounds of `InvCipher` with the round keys r down to 1, from the state Y (R256). -/
def inverseRounds (o : ByteOrder) (dk : Words 60) (Y : Words 4) : Nat → Words 4
  | 0 => Y
  | r + 1 => inverseRounds o dk (rround o Y (roundKey dk (r + 1))) r

/-- `InvCipher(DK, Nr, X)`: whitening with the last round key, the full rounds, the final round (R256, R257). -/
def invCipher (o : ByteOrder) (dk : Words 60) (nr : Nat) (X : Words 4) : Words 4 :=
  rfinal o (inverseRounds o dk (whiten X (roundKey dk nr)) (nr - 1)) (roundKey dk 0)

end Sys2Proof.Machine
end

