-- ==== Sys2Proof/Machine/Cipher.lean ====
section
/-! DEFINITION. The meanings of ENCRYPT and DECRYPT (spec/42_round_engine.md R260, R261, R270, R271). -/

namespace Sys2Proof.Machine

/-- ENCRYPT completion (R261). -/
def encryptComplete (b : Build) (s : State) : State :=
  finish (writeOutput (cipher b.internal s.ek s.nr.toNat (inputBlock b s)) s)

/-- ENCRYPT on a block built with the orders `b`. While BUSY = 0 this is the CMD write that carries it (R260: the checks in
the order of spec/60_exceptions.md R333, then the accept); while BUSY = 1 it is the core's completion step (R261). -/
def encryptIn (b : Build) (s : State) : Result :=
  if s.busy then .next (encryptComplete b s)
  else if !s.ready then .next (reject .notReady s)
  else if !s.encValid then .next (reject .noSchedule s)
  else .next (accept (encode .encrypt) s)

/-- ENCRYPT (R260, R261). -/
def execEncrypt (s : State) : Result := encryptIn Config.build s

/-- DECRYPT completion (R271). -/
def decryptComplete (b : Build) (s : State) : State :=
  finish (writeOutput (invCipher b.internal s.dk s.nr.toNat (inputBlock b s)) s)

/-- DECRYPT on a block built with the orders `b`. While BUSY = 0 this is the CMD write that carries it (R270: the checks in
the order of spec/60_exceptions.md R333, then the accept); while BUSY = 1 it is the core's completion step (R271). -/
def decryptIn (b : Build) (s : State) : Result :=
  if s.busy then .next (decryptComplete b s)
  else if !s.ready then .next (reject .notReady s)
  else if !s.decValid then .next (reject .noSchedule s)
  else .next (accept (encode .decrypt) s)

/-- DECRYPT (R270, R271). -/
def execDecrypt (s : State) : Result := decryptIn Config.build s

end Sys2Proof.Machine
end

