-- ==== Sys2Proof/Machine/KeySchedule.lean ====
section
/-! DEFINITION. The key schedule expander as functions (spec/41_key_schedule.md R200 to R208). -/

namespace Sys2Proof.Machine

/-- `Nk = KEYBITS / 32` (R200). -/
def nkOf (keybits : BitVec 9) : Nat := keybits.toNat / 32

/-- `Nr = Nk + 6` (R201). -/
def nrOf (nk : Nat) : Nat := nk + 6

/-- The schedule length `n = 4·(Nr + 1)` (R201). -/
def scheduleLength (nr : Nat) : Nat := 4 * (nr + 1)

/-- The term that R203 XORs with the word Nk back, for the word of index i, from the word before it (R204 to R206). -/
def expandTerm (o : ByteOrder) (nk i : Nat) (previous : Word) : Word :=
  if i % nk = 0 then subWord o (rotWord o previous) ^^^ rconW o (i / nk - 1)
  else if nk = 8 ∧ i % nk = 4 then subWord o previous
  else previous

/-- The next word `w[i]`, i being the number of words so far (R203). -/
def expandWord (o : ByteOrder) (nk : Nat) (w : List Word) : Word :=
  w.getD (w.length - nk) 0 ^^^ expandTerm o nk w.length (w.getD (w.length - 1) 0)

/-- `count` more words of the recurrence after the words `w` (R203). -/
def expandMore (o : ByteOrder) (nk : Nat) (w : List Word) : Nat → List Word
  | 0 => w
  | count + 1 => expandMore o nk (w ++ [expandWord o nk w]) count

/-- `KeyExpand(Nk, KEY)` from the Nk initial words in internal form (R202, R203): the words `w[0 .. n-1]`. -/
def keyExpand (o : ByteOrder) (nk : Nat) (initial : List Word) : List Word :=
  expandMore o nk initial (scheduleLength (nrOf nk) - nk)

/-- `DKword(w, i)`: the decrypt schedule's word (R207). -/
def dkWord (o : ByteOrder) (nr : Nat) (w : List Word) (i : Nat) : Word :=
  if i < 4 ∨ 4 * nr ≤ i then w.getD i 0 else invMixColumn o (w.getD i 0)

/-- The 60 words of EK: words past n are 0 (R208). -/
def ekStorage (nr : Nat) (w : List Word) : Words 60 :=
  Vector.ofFn fun i => if i.val < scheduleLength nr then w.getD i.val 0 else 0

/-- The 60 words of DK: all 0 unless MODE bit 1 asks for decryption, and words past n are 0 (R208). -/
def dkStorage (o : ByteOrder) (mode : BitVec 2) (nr : Nat) (w : List Word) : Words 60 :=
  Vector.ofFn fun i =>
    if mode.getLsbD 1 = true ∧ i.val < scheduleLength nr then dkWord o nr w i.val else 0

end Sys2Proof.Machine
end

