-- ==== Sys2Proof/Machine/SetupKey.lean ====
section
/-! DEFINITION. The meaning of SETUP_KEY (spec/41_key_schedule.md R210, R211). -/

namespace Sys2Proof.Machine

/-- The words `w[0 .. n-1]` a SETUP_KEY expands from the KEY registers as they stand (R202, R203, R211). -/
def expandedKey (b : Build) (keybits : BitVec 9) (s : State) : List Word :=
  keyExpand b.internal (nkOf keybits) (keyWords b s (nkOf keybits))

/-- SETUP_KEY completion (R211). -/
def setupKeyComplete (b : Build) (keybits : BitVec 9) (mode : BitVec 2) (s : State) : State :=
  let nr := nrOf (nkOf keybits)
  let w := expandedKey b keybits s
  finish (storeSchedules (ekStorage nr w) (dkStorage b.internal mode nr w) (BitVec.ofNat 4 nr) mode s)

/-- SETUP_KEY on a block built with the orders `b`. While BUSY = 0 this is the CMD write that carries it (R210: the checks
in the order of spec/60_exceptions.md R333, then the accept); while BUSY = 1 it is the core's completion step (R211). -/
def setupKeyIn (b : Build) (keybits : BitVec 9) (mode : BitVec 2) (s : State) : Result :=
  if s.busy then
    if setupKeyLegal keybits mode then .next (setupKeyComplete b keybits mode s) else .fault .curNotLegal
  else if !s.ready then .next (reject .notReady s)
  else if !setupKeyLegal keybits mode then .next (reject .invalidParam s)
  else .next (acceptSetup (encode (.setupKey keybits mode)) s)

/-- SETUP_KEY (R210, R211). -/
def execSetupKey (keybits : BitVec 9) (mode : BitVec 2) (s : State) : Result :=
  setupKeyIn Config.build keybits mode s

end Sys2Proof.Machine
end

