-- ==== Sys2Proof/Machine/Window.lean ====
section
/-! DEFINITION. The register window: its map and the host's reads and writes (spec/20_memory.md R70 to R89). -/

namespace Sys2Proof.Machine

/-- A register of the window (R72). -/
inductive Register where
  | cmd
  | status
  | params
  | key (j : Fin 8)
  | din (c : Fin 4)
  | dout (c : Fin 4)
  | encRk (i : Fin 60)
  | decRk (i : Fin 60)
  | rcon (j : Fin 32)
  | gftbl (i : Fin 256)
  | ft0w (i : Fin 256)
  | rt0w (i : Fin 256)
  /-- Every offset the table of R72 does not list. -/
  | reserved
  deriving DecidableEq, Repr

/-- Index of the register at `off` in an array of `n` registers from offset `base`, 4 bytes apart. -/
def arrayIndex (base n off : Nat) : Option (Fin n) :=
  if h : base ≤ off ∧ off < base + 4 * n then some ⟨(off - base) / 4, by omega⟩ else none

/-- The register at an aligned offset (R72, R80). -/
def registerAt (off : Nat) : Register :=
  if off = 0x000 then .cmd
  else if off = 0x004 then .status
  else if off = 0x008 then .params
  else if let some j := arrayIndex 0x020 8 off then .key j
  else if let some c := arrayIndex 0x040 4 off then .din c
  else if let some c := arrayIndex 0x050 4 off then .dout c
  else if let some i := arrayIndex 0x100 60 off then .encRk i
  else if let some i := arrayIndex 0x200 60 off then .decRk i
  else if let some j := arrayIndex 0x300 32 off then .rcon j
  else if let some i := arrayIndex 0x400 256 off then .gftbl i
  else if let some i := arrayIndex 0x800 256 off then .ft0w i
  else if let some i := arrayIndex 0xC00 256 off then .rt0w i
  else .reserved

/-- `GFTBLi`: SBOX, INVSBOX, POW and LOG at i, from the low byte up (R88). -/
def gftblWord (i : Fin 256) : Word :=
  log (BitVec.ofNat 8 i.val) ++ pow i.val ++ invSbox (BitVec.ofNat 8 i.val) ++ sbox (BitVec.ofNat 8 i.val)

/-- A table view: its word once the tables are generated, and 0 before (R87 to R89). -/
def whenReady (s : State) (v : Word) : Word := if s.ready then v else 0

/-- The value a register reads as (R80, R82 to R89); a read changes nothing (R79). -/
def readRegister (b : Build) (s : State) : Register → Word
  | .cmd => 0
  | .status => statusValue s
  | .params => paramsValue b
  | .key j => s.key[j]
  | .din c => s.din[c]
  | .dout c => marshalOut b s.doutW[c]
  | .encRk i => marshalOut b s.ek[i]
  | .decRk i => marshalOut b s.dk[i]
  | .rcon j => whenReady s ((rcon j.val).setWidth 32)
  | .gftbl i => whenReady s (gftblWord i)
  | .ft0w i => whenReady s (marshalOut b (ft0 b.internal (BitVec.ofNat 8 i.val)))
  | .rt0w i => whenReady s (marshalOut b (rt0 b.internal (BitVec.ofNat 8 i.val)))
  | .reserved => 0

/-- `MemRead(off, n)` (R80). -/
def memRead (b : Build) (off : BitVec 12) (bytes : Nat) (s : State) : Reply :=
  if accessOk off bytes then readReply (readRegister b s (registerAt off.toNat)) else busError

/-- The effect of an aligned 4-byte write on the register at its offset (R81): CMD takes a command, KEY and DIN are
written, and a write to any other register is ignored (R77, R78). -/
def writeRegister (run : Instr → State → Result) (v : Word) (s : State) : Register → Result
  | .cmd => commandWrite run v s
  | .key j => .next (writeKey j v s)
  | .din c => .next (writeDin c v s)
  | .status => .next s
  | .params => .next s
  | .dout _ => .next s
  | .encRk _ => .next s
  | .decRk _ => .next s
  | .rcon _ => .next s
  | .gftbl _ => .next s
  | .ft0w _ => .next s
  | .rt0w _ => .next s
  | .reserved => .next s

/-- `MemWrite(off, n, v)` (R81), with the answer the host gets. -/
def memWrite (run : Instr → State → Result) (off : BitVec 12) (bytes : Nat) (v : Word) (s : State) : Result :=
  if accessOk off bytes then writeRegister run v (answer writeReply s) (registerAt off.toNat)
  else .next (answer busError s)

/-- The window offset that an access to host address A reaches in a block at BASE_ADDR `base`: `A - BASE_ADDR`; a host
address outside the window never reaches the block (R71). -/
def windowOffsetFrom (base A : Nat) : Option (BitVec 12) :=
  if base ≤ A ∧ A ≤ base + 0xFFF then some (BitVec.ofNat 12 (A - base)) else none

/-- The window offset that an access to host address A reaches in this block (R71). -/
def windowOffset (A : Nat) : Option (BitVec 12) := windowOffsetFrom Config.baseAddr A

/-- The event of a host read of `bytes` bytes at host address A, if it reaches the block (R71). -/
def hostReadAt (A bytes : Nat) : Option Event := (windowOffset A).map fun off => .read off bytes

/-- The event of a host write of `bytes` bytes of `v` at host address A, if it reaches the block (R71). -/
def hostWriteAt (A bytes : Nat) (v : Word) : Option Event := (windowOffset A).map fun off => .write off bytes v

end Sys2Proof.Machine
end

