-- ==== Sys2Proof/Machine/Events.lean ====
section
/-! DEFINITION. The steps of the two agents and the reset (spec/10_state.md R32). Each is indivisible
(spec/20_memory.md R91). -/

namespace Sys2Proof.Machine

/-- The completion step, if it is enabled (BUSY = 1, spec/60_exceptions.md R335). -/
def completionStep (run : Instr → State → Result) (s : State) : Result :=
  if s.busy then completeCommand run s else .next s

/-- The core's step while the host is silent: the step that is enabled, and none when the block is quiescent
(spec/70_reset_and_hazards.md R382, R383). READY = 0 and BUSY = 1 never hold together (spec/10_state.md R50(a)). -/
def coreStep (run : Instr → State → Result) (s : State) : Result :=
  if !s.ready then .next (tableGen s) else completionStep run s

/-- The step of one event, on a block built with the orders `b` whose commands `run` performs. -/
def eventStep (b : Build) (run : Instr → State → Result) (s : State) : Event → Result
  | .read off bytes => .next (answer (memRead b off bytes s) s)
  | .write off bytes v => memWrite run off bytes v s
  | .generate => .next (tableGen s)
  | .complete => completionStep run s
  | .reset => .next (resetEvent s)

/-- The next step: that of the first event, and the core's when no event is left. -/
def nextStep (b : Build) (run : Instr → State → Result) (s : State) : Result :=
  match s.events with
  | [] => coreStep run s
  | e :: rest => eventStep b run { s with events := rest } e

/-- Offset of the CMD register (spec/20_memory.md R72). -/
def cmdOffset : BitVec 12 := 0x000

/-- `s` with the CMD write of the word whose low `nbits` bits are those of `w` as its next event (log 10). -/
def placeCommand (s : State) (nbits w : Nat) : State :=
  { s with
    ready := true
    busy := false
    events := .write cmdOffset 4 (BitVec.ofNat 32 (w % 2 ^ nbits)) :: s.events }

end Sys2Proof.Machine
end

