-- ==== Sys2Proof/Machine/Step.lean ====
section
/-! DEFINITION. The step of the machine. -/

namespace Sys2Proof.Machine

/-- One step: the next event of State.events, or the core's enabled step when none is left (spec/10_state.md R32). -/
def step (s : State) : Host.Outcome State Fault Refusal := nextStep Config.build exec s

/-- `s` with a command word where the block takes its next command from: the next event is the host's write of it to CMD,
and the block is ready and idle, without which the word is turned away unread (spec/60_exceptions.md R333). Log 10. -/
def State.withFetchWord (s : State) (nbits w : Nat) : State := placeCommand s nbits w

end Sys2Proof.Machine
end

