-- ==== Sys2Proof/Machine/HostAssembler.lean ====
section
/-! DEFINITION. The host assembler (spec/30_encoding.md R120 to R122) and the boot and use sequence
(spec/70_reset_and_hazards.md R374), as sequences of host accesses. A POLL is a loop of the host's own: here it is the read it
repeats and the test that ends it. -/

namespace Sys2Proof.Machine

/-- `WR off, v` (R121). -/
def asmWr (off : BitVec 12) (v : Word) : Event := .write off 4 v

/-- `RD off` (R121). -/
def asmRd (off : BitVec 12) : Event := .read off 4

/-- The test that ends `POLL off, mask, val` on the answer of one of its reads (R121). -/
def pollEnds (mask val : Word) (r : Reply) : Bool := r.data &&& mask == val

/-- The word of `SETUP_KEY <keybits>, <mode>`: `KEYBITS << 8 | MODE << 4 | OP` (R120). -/
def asmSetupKey (keybits : BitVec 9) (mode : BitVec 2) : Word :=
  keybits.setWidth 32 <<< 8 ||| mode.setWidth 32 <<< 4 ||| 1

/-- `CMD <command>` (R121). -/
def asmCmd (i : Instr) : List Event := [asmWr 0x000 (encode i)]

/-- `CMDCHK <command>` (R122). -/
def asmCmdChk (i : Instr) : List Event := asmCmd i ++ [asmRd 0x004]

/-- Whether the STATUS word a CMDCHK read says that the command was accepted (R122). -/
def cmdAccepted (status : Word) : Bool := status.extractLsb' 8 4 == 0

/-- The test that ends WAITREADY (R121). -/
def waitReadyEnds (r : Reply) : Bool := pollEnds 0x00000001 0x00000001 r

/-- The test that ends WAITIDLE: BUSY = 0 and DONE = 1 (R121). -/
def waitIdleEnds (r : Reply) : Bool := pollEnds 0x00000006 0x00000004 r

/-- Writes of consecutive words from offset `off` on. -/
def asmWrAll (off : BitVec 12) : List Word → List Event
  | [] => []
  | v :: vs => asmWr off v :: asmWrAll (off + 4) vs

/-- `LDKEY w0, ..., w(n-1)` (R121). -/
def asmLdKey (ws : List Word) : List Event := asmWrAll 0x020 ws

/-- `LDBLK w0, w1, w2, w3` (R121). -/
def asmLdBlk (w0 w1 w2 w3 : Word) : List Event := asmWrAll 0x040 [w0, w1, w2, w3]

/-- `RDOUT` (R121). -/
def asmRdOut : List Event := [asmRd 0x050, asmRd 0x054, asmRd 0x058, asmRd 0x05C]

/-- The boot and use sequence of R374 for one key and one block, each POLL with the core step it waits for before its one
read. -/
def bootSequence (ws : List Word) (keybits : BitVec 9) (mode : BitVec 2) (d0 d1 d2 d3 : Word) (i : Instr) : List Event :=
  [.generate, asmRd 0x004] ++ asmLdKey ws ++ asmCmdChk (.setupKey keybits mode) ++ [.complete, asmRd 0x004]
    ++ asmLdBlk d0 d1 d2 d3 ++ asmCmdChk i ++ [.complete, asmRd 0x004] ++ asmRdOut

end Sys2Proof.Machine
end

