-- ==== Sys2Proof/Machine/AnyBuild.lean ====
section
/-! DEFINITION. The commands and the step of a block built with given byte orders (spec/00_scope.md R7: the model takes its
parameters as arguments). `exec` and `step` are these at the orders of this block. -/

namespace Sys2Proof.Machine

/-- The command's meaning on a block built with the orders `b`; `exec` is this at `Config.build`. -/
def execIn (b : Build) : Instr → State → Result
  | .setupKey keybits mode => setupKeyIn b keybits mode
  | .encrypt => encryptIn b
  | .decrypt => decryptIn b

/-- The step of a block built with the orders `b`; `step` is this at `Config.build`. -/
def stepIn (b : Build) (s : State) : Result := nextStep b (execIn b) s

end Sys2Proof.Machine
end

