-- ==== Sys2Proof/Machine/Instances.lean ====
section
/-! DEFINITION. Several instances on one platform (spec/60_exceptions.md R345): each has its own window, its own BASE_ADDR and
its own state; they share nothing that can change. -/

namespace Sys2Proof.Machine

/-- One instance: the parameters it was built and placed with (spec/00_scope.md R7), and its state. An instance has no
identifier of its own (R345): the platform knows it by its place in the list. -/
structure Instance where
  /-- The number of the 4096-byte page that is its window. -/
  page : Nat
  /-- Its byte orders. -/
  build : Build
  /-- Its state. -/
  state : State
  deriving DecidableEq, Repr

/-- The BASE_ADDR of an instance. -/
def instanceBase (i : Instance) : Nat := Config.windowBase i.page

/-- Every instance has its own window: no two instances are placed at one page (R345). Log 13. -/
def OwnWindows (platform : List Instance) : Prop := (platform.map Instance.page).Nodup

/-- A step of one instance, with its own parameters. -/
def stepInstance (i : Instance) : Host.Outcome Instance Fault Refusal :=
  match stepIn i.build i.state with
  | .next t => .next { i with state := t }
  | .fault r => .fault r
  | .refused r => .refused r

/-- A step of instance k of a platform; the others stay as they are. A platform without an instance k does not step. -/
def instanceStep (k : Nat) (platform : List Instance) : Host.Outcome (List Instance) Fault Refusal :=
  match platform[k]? with
  | none => .next platform
  | some i =>
    match stepInstance i with
    | .next j => .next (platform.set k j)
    | .fault r => .fault r
    | .refused r => .refused r

/-- The instance in whose window the host address A lies, and the offset it reaches there (spec/20_memory.md R71); none where
A lies in no window. -/
def reachedInstance : List Instance → Nat → Option (Nat × BitVec 12)
  | [], _ => none
  | i :: rest, A =>
    match windowOffsetFrom (instanceBase i) A with
    | some off => some (0, off)
    | none => (reachedInstance rest A).map fun p => (p.1 + 1, p.2)

/-- An instance with `e` as its next event. -/
def pushEvent (e : Event) (i : Instance) : Instance := { i with state := { i.state with events := e :: i.state.events } }

/-- A host access at address A: the next event of the instance it reaches, at the offset it reaches there. An address in no
window reaches no instance. -/
def hostAccess (A : Nat) (access : BitVec 12 → Event) (platform : List Instance) : List Instance :=
  match reachedInstance platform A with
  | none => platform
  | some (k, off) => platform.modify k (pushEvent (access off))

end Sys2Proof.Machine
end

