-- ==== Sys2Proof/WellFormed.lean ====
section
/-! DEFINITION. The operand values that make a command legal (spec/30_encoding.md R113, R114, R119). -/

namespace Sys2Proof

/-- The declared key lengths of R114: 128, 192 and 256 bits. -/
def KeybitsWellFormed (keybits : BitVec 9) : Bool :=
  keybits == 128#9 || keybits == 192#9 || keybits == 256#9

/-- The modes of R113: encrypt-only, decrypt-only and both; 0b00 is invalid. -/
def ModeWellFormed (mode : BitVec 2) : Bool := mode != 0#2

/-- The 11 legal commands of R119: SETUP_KEY needs a legal length and a legal mode, the others have no operand. -/
def WellFormed : Instr → Bool
  | .setupKey keybits mode => KeybitsWellFormed keybits && ModeWellFormed mode
  | .encrypt => true
  | .decrypt => true

end Sys2Proof
end

