-- ==== Sys2Proof/Safety.lean ====
section
/-! DEFINITION. The terms of the claims: the invariants of spec/10_state.md R50, quiescence, the steps that may write a piece
of state, the field product and the AES cipher as FIPS-197 words them (independent of the tables), and when two blocks that
differ in INTERNAL_ORDER look the same to the host. -/

namespace Sys2Proof.Machine

/-- The invariants (a) to (f) of R50. -/
structure BlockInv (s : State) : Prop where
  /-- (a) -/
  busy_ready : s.busy = true → s.ready = true
  /-- (b) -/
  nr_legal : s.nr ∈ [0#4, 10#4, 12#4, 14#4]
  /-- (c) -/
  valid_nr : s.encValid = true ∨ s.decValid = true → s.nr ≠ 0
  /-- (d) -/
  err_legal : s.err.toNat ≤ 5
  /-- (e) -/
  cur_legal : s.busy = true → ∃ i, decode s.cur = .command i
  /-- (f), first half -/
  unused_zero : ∀ i : Fin 60, 4 * (s.nr.toNat + 1) ≤ i.val → s.ek[i] = 0 ∧ s.dk[i] = 0
  /-- (f), second half -/
  empty_zero : s.nr = 0 → ∀ i : Fin 60, s.ek[i] = 0 ∧ s.dk[i] = 0

/-- The schedules of `s` are those a SETUP_KEY of these operands, with these eight KEY words, stores (spec/41_key_schedule.md
R208, R211). -/
def SchedulesOf (b : Build) (keybits : BitVec 9) (mode : BitVec 2) (key : Words 8) (s : State) : Prop :=
  let nr := nrOf (nkOf keybits)
  let w := keyExpand b.internal (nkOf keybits) ((key.toList.take (nkOf keybits)).map (marshalIn b))
  s.nr = BitVec.ofNat 4 nr ∧ s.ek = ekStorage nr w ∧ s.dk = dkStorage b.internal mode nr w

/-- What the lifecycle adds to R50: an ENCRYPT or DECRYPT in progress has its schedule, and the schedules are those of one
SETUP_KEY (spec/60_exceptions.md R333, R334; spec/41_key_schedule.md R211). -/
structure ScheduleInv (b : Build) (s : State) : Prop where
  encrypt_valid : s.busy = true → decode s.cur = .command .encrypt → s.encValid = true
  decrypt_valid : s.busy = true → decode s.cur = .command .decrypt → s.decValid = true
  nr_established : s.encValid = true ∨ s.decValid = true → s.nr ≠ 0
  established : s.nr ≠ 0 → ∃ keybits mode key, setupKeyLegal keybits mode = true ∧ SchedulesOf b keybits mode key s
    ∧ (s.encValid = true → modeEncrypts mode = true) ∧ (s.decValid = true → modeDecrypts mode = true)

/-- The block is quiescent (spec/70_reset_and_hazards.md R383). -/
def Quiescent (s : State) : Prop := s.ready = true ∧ s.busy = false

/-- `t` has the spec's state of `s`: they differ at most in the model's own fields `events` and `reply`. -/
def SameBlock (s t : State) : Prop := { s with events := t.events, reply := t.reply } = t

/-- The step that comes next is a completion step that is enabled (spec/60_exceptions.md R335). -/
def CompletionNext (s : State) : Prop :=
  s.busy = true ∧ (s.events.head? = some .complete ∨ (s.events = [] ∧ s.ready = true))

/-- The step that comes next is a generation step that is enabled (spec/40_field_tables.md R175). -/
def GenerationNext (s : State) : Prop :=
  s.ready = false ∧ (s.events.head? = some .generate ∨ s.events = [])

/-- The step that comes next is a reset (spec/70_reset_and_hazards.md R370). -/
def ResetNext (s : State) : Prop := s.events.head? = some .reset

/-- The step that comes next is a host write of `v` to the register `r`: aligned and 4 bytes wide (spec/20_memory.md R81). -/
def WriteNext (s : State) (r : Register) (v : Word) : Prop :=
  ∃ off bytes, s.events.head? = some (.write off bytes v) ∧ accessOk off bytes = true ∧ registerAt off.toNat = r

/-- An access of the host, whatever its offset, width and value. -/
def isHostAccess : Event → Bool
  | .read _ _ => true
  | .write _ _ _ => true
  | .generate => false
  | .complete => false
  | .reset => false

/-- The offset of a register (R72); the map gives a reserved offset no register. -/
def registerOffset : Register → Option Nat
  | .cmd => some 0x000
  | .status => some 0x004
  | .params => some 0x008
  | .key j => some (0x020 + 4 * j.val)
  | .din c => some (0x040 + 4 * c.val)
  | .dout c => some (0x050 + 4 * c.val)
  | .encRk i => some (0x100 + 4 * i.val)
  | .decRk i => some (0x200 + 4 * i.val)
  | .rcon j => some (0x300 + 4 * j.val)
  | .gftbl i => some (0x400 + 4 * i.val)
  | .ft0w i => some (0x800 + 4 * i.val)
  | .rt0w i => some (0xC00 + 4 * i.val)
  | .reserved => none

/-- The last n terms of the product of two field elements as polynomials over GF(2) modulo 0x11B (spec/40_field_tables.md
R140): the product is the sum of the `x^i·a` over the coefficients i of b that are 1, and here `a` is already multiplied by
x^(8 - n). -/
def polyMulFrom (a b : Byte) : Nat → Byte
  | 0 => 0
  | n + 1 => (if b.getLsbD (7 - n) then a else 0) ^^^ polyMulFrom (xtime a) b n

/-- The product modulo 0x11B (R140). -/
def polyMul (a b : Byte) : Byte := polyMulFrom a b 8

/-- The bytes of a block: column first, then row (spec/42_round_engine.md R250). -/
abbrev Bytes := Fin 4 → Fin 4 → Byte

/-- The bytes of four internal-form words: lane r of word c is row r of column c (R250). -/
def bytesOf (o : ByteOrder) (Y : Words 4) : Bytes := fun c r => lane o Y[c] r

/-- SubBytes of FIPS-197. -/
def subBytes (B : Bytes) : Bytes := fun c r => sbox (B c r)

/-- ShiftRows of FIPS-197: row r shifts left by r (R251). -/
def shiftRows (B : Bytes) : Bytes := fun c r => B (c + r) r

/-- MixColumns of FIPS-197 (R160). -/
def mixColumns (B : Bytes) : Bytes := fun c => mixLane (B c)

/-- AddRoundKey of FIPS-197. -/
def addRoundKey (B K : Bytes) : Bytes := fun c r => B c r ^^^ K c r

/-- InvSubBytes of FIPS-197. -/
def invSubBytes (B : Bytes) : Bytes := fun c r => invSbox (B c r)

/-- InvShiftRows of FIPS-197: row r shifts right by r (R253). -/
def invShiftRows (B : Bytes) : Bytes := fun c r => B (c - r) r

/-- InvMixColumns of FIPS-197 (R161). -/
def invMixColumns (B : Bytes) : Bytes := fun c => invMixLane (B c)

/-- The state of the FIPS-197 Cipher after round r, for round keys `K`. -/
def textbookRounds (K : Nat → Bytes) (B : Bytes) : Nat → Bytes
  | 0 => addRoundKey B (K 0)
  | r + 1 => addRoundKey (mixColumns (shiftRows (subBytes (textbookRounds K B r)))) (K (r + 1))

/-- The FIPS-197 Cipher with `nr` rounds. -/
def textbookCipher (K : Nat → Bytes) (nr : Nat) (B : Bytes) : Bytes :=
  addRoundKey (shiftRows (subBytes (textbookRounds K B (nr - 1)))) (K nr)

/-- The FIPS-197 InvCipher from a state after AddRoundKey of round r + 1 down to its end. -/
def textbookInvRounds (K : Nat → Bytes) (B : Bytes) : Nat → Bytes
  | 0 => addRoundKey (invSubBytes (invShiftRows B)) (K 0)
  | r + 1 => textbookInvRounds K (invMixColumns (addRoundKey (invSubBytes (invShiftRows B)) (K (r + 1)))) r

/-- The FIPS-197 InvCipher with `nr` rounds: the inverse cipher that uses the encrypt schedule. -/
def textbookInvCipher (K : Nat → Bytes) (nr : Nat) (B : Bytes) : Bytes :=
  textbookInvRounds K (addRoundKey B (K nr)) (nr - 1)

/-- The round keys of a schedule, as bytes. -/
def keyBytes (o : ByteOrder) (k : Words 60) (r : Nat) : Bytes := bytesOf o (roundKey k r)

/-- DK is the decrypt schedule of EK for `nr` rounds (spec/41_key_schedule.md R207). -/
def DecryptScheduleOf (o : ByteOrder) (nr : Nat) (ek dk : Words 60) : Prop :=
  ∀ i : Fin 60, i.val < scheduleLength nr → dk[i] = dkWord o nr ek.toList i.val

/-- Words stored in the internal forms of two builds are seen as the same bus words. -/
def SameWords {n : Nat} (b1 b2 : Build) (w1 w2 : Words n) : Prop :=
  ∀ i : Fin n, marshalOut b1 w1[i] = marshalOut b2 w2[i]

/-- The states of two blocks that differ in their orders look the same through every register but PARAMS
(spec/43_marshaling.md R304). The answers to past accesses are not compared. -/
structure SameView (b1 b2 : Build) (s t : State) : Prop where
  ready : s.ready = t.ready
  busy : s.busy = t.busy
  done : s.done = t.done
  err : s.err = t.err
  encValid : s.encValid = t.encValid
  decValid : s.decValid = t.decValid
  nr : s.nr = t.nr
  cur : s.cur = t.cur
  key : s.key = t.key
  din : s.din = t.din
  doutW : SameWords b1 b2 s.doutW t.doutW
  ek : SameWords b1 b2 s.ek t.ek
  dk : SameWords b1 b2 s.dk t.dk
  events : s.events = t.events

end Sys2Proof.Machine
end

