-- ==== Sys2Proof/Certificates/Slice0/Obligations.lean ====
section
/-! DEFINITION. The statements for the provers. Each is about the machine, from the spec's numbered rules; none is about a
program. `Config.build` is the opaque pair of byte orders of this block, so a statement about `exec` or `step` holds for
every build. -/

open Sys2Proof Sys2Proof.Machine

/-! ### Encoding -/

/-- R111 to R119: the decoder reads back every command an encoder writes, with every operand at every value its field admits,
and no two words are one command; `decode` accepts exactly the well-formed commands. -/
def Obligations.DecodeAndEncodeAgree : Prop :=
  (∀ i : Instr, decodeWord (encode i) = some i)
  ∧ (∀ (v : Word) (i : Instr), decodeWord v = some i → encode i = v)
  ∧ (∀ i : Instr, WellFormed i = true → decode (encode i) = .command i)
  ∧ (∀ (v : Word) (i : Instr), decode v = .command i → WellFormed i = true ∧ encode i = v)

/-- R116: the decoder, by the fields as numbers, and the rejections its two refusals lead to. -/
def Obligations.DecoderFollowsTheFields : Prop :=
  (∀ v : Word, decode v =
    if v.toNat % 16 = 1 then
      if v.toNat / 64 % 4 ≠ 0 ∨ v.toNat / 2 ^ 17 ≠ 0 then .illegal
      else if v.toNat / 16 % 4 = 0 ∨ v.toNat / 256 % 512 ∉ [128, 192, 256] then .invalid
      else .command (.setupKey (BitVec.ofNat 9 (v.toNat / 256 % 512)) (BitVec.ofNat 2 (v.toNat / 16 % 4)))
    else if v.toNat % 16 = 2 then
      if v.toNat / 16 ≠ 0 then .illegal else .command .encrypt
    else if v.toNat % 16 = 3 then
      if v.toNat / 16 ≠ 0 then .illegal else .command .decrypt
    else .illegal)
  ∧ (∀ (v : Word) (s : State), s.ready = true → s.busy = false →
      (decode v = .illegal → commandWrite exec v s = .next { s with err := 1 })
      ∧ (decode v = .invalid → commandWrite exec v s = .next { s with err := 2 }))

/-- R117, R119: exactly 11 of the 2^32 words are commands, with the operands, Nk and Nr of the table. -/
def Obligations.ElevenLegalCommandWords : Prop :=
  (∀ (v : Word) (i : Instr), decode v = .command i ↔ (v, i) ∈
    [(0x00008011#32, Instr.setupKey 128 1), (0x00008021#32, .setupKey 128 2), (0x00008031#32, .setupKey 128 3),
     (0x0000C011#32, .setupKey 192 1), (0x0000C021#32, .setupKey 192 2), (0x0000C031#32, .setupKey 192 3),
     (0x00010011#32, .setupKey 256 1), (0x00010021#32, .setupKey 256 2), (0x00010031#32, .setupKey 256 3),
     (0x00000002#32, .encrypt), (0x00000003#32, .decrypt)])
  ∧ (∀ (v : Word) (keybits : BitVec 9) (mode : BitVec 2), decode v = .command (.setupKey keybits mode) →
      (keybits, nkOf keybits, nrOf (nkOf keybits)) ∈ [(128#9, 4, 10), (192#9, 6, 12), (256#9, 8, 14)])

/-- A few words written out from R111, R112 and spec/95_test_vectors.md section 6, legal and refused. -/
def Obligations.SampleWordsDecode : Prop :=
  decode 0b00000000000000010000000000110001#32 = .command (.setupKey 256 3)
  ∧ decode 0b00000000000000001100000000010001#32 = .command (.setupKey 192 1)
  ∧ decode 0b00000000000000000000000000000010#32 = .command .encrypt
  ∧ decode 0b00000000000000000000000000000011#32 = .command .decrypt
  ∧ decode 0x00008001#32 = .invalid ∧ decode 0x0001FF31#32 = .invalid ∧ decode 0x00020031#32 = .illegal
  ∧ decode 0x0000C0C1#32 = .illegal ∧ decode 0x00000012#32 = .illegal ∧ decode 0x00000000#32 = .illegal

/-- R120: the assembler's word for any KEYBITS from 0 to 511 and any MODE from 0 to 3 is the command's word. -/
def Obligations.AssemblerPlacesTheFields : Prop :=
  (∀ (keybits : BitVec 9) (mode : BitVec 2), asmSetupKey keybits mode = encode (.setupKey keybits mode))
  ∧ (∀ (keybits : BitVec 9) (mode : BitVec 2),
      (encode (.setupKey keybits mode)).toNat = keybits.toNat * 256 + mode.toNat * 16 + 1)
  ∧ (encode .encrypt).toNat = 2 ∧ (encode .decrypt).toNat = 3

/-! ### Byte orders and marshaling -/

/-- R302: lane r of a marshalled word is byte r of the bus word, in every build. -/
def Obligations.LanesAreTheBusBytes : Prop :=
  (∀ (b : Build) (v : Word) (r : Fin 4), lane b.internal (marshalIn b v) r = unpack b.external v r)
  ∧ ∀ (b : Build) (b0 b1 b2 b3 : Byte),
      marshalOut b (mkword b.internal b0 b1 b2 b3) = pack b.external b0 b1 b2 b3

/-- R303: marshaling out and in is the identity, both ways. -/
def Obligations.MarshalingRoundTrip : Prop :=
  ∀ (b : Build) (v : Word), marshalIn b (marshalOut b v) = v ∧ marshalOut b (marshalIn b v) = v

/-- R307: the bytes 00 11 22 33 in the four builds. -/
def Obligations.MarshalingInTheFourBuilds : Prop :=
  (pack .le 0x00 0x11 0x22 0x33 = 0x33221100#32 ∧ pack .be 0x00 0x11 0x22 0x33 = 0x00112233#32)
  ∧ marshalIn ⟨.le, .le⟩ 0x33221100#32 = 0x33221100#32
  ∧ marshalIn ⟨.le, .be⟩ 0x00112233#32 = 0x33221100#32
  ∧ marshalIn ⟨.be, .le⟩ 0x33221100#32 = 0x00112233#32
  ∧ marshalIn ⟨.be, .be⟩ 0x00112233#32 = 0x00112233#32
  ∧ ∀ b : Build, lane b.internal (marshalIn b (pack b.external 0x00 0x11 0x22 0x33)) 0 = 0x00
      ∧ lane b.internal (marshalIn b (pack b.external 0x00 0x11 0x22 0x33)) 3 = 0x33

/-- R304: two blocks that differ in INTERNAL_ORDER only and look the same answer every event alike and look the same after
it: the answer to a write is the same, and so is the answer to a read of any width at any offset, but for bit 0 of the word
that an aligned 4-byte read of PARAMS returns. The list of events is the model's form of the free step order (log 2). -/
def Obligations.InternalOrderIsNotObservable : Prop :=
  ∀ (i1 i2 e : ByteOrder) (s t s' : State), SameView ⟨i1, e⟩ ⟨i2, e⟩ s t → stepIn ⟨i1, e⟩ s = .next s' →
    ∃ t', stepIn ⟨i2, e⟩ t = .next t' ∧ SameView ⟨i1, e⟩ ⟨i2, e⟩ s' t'
      ∧ (∀ (off : BitVec 12) (bytes : Nat) (v : Word), s.events.head? = some (.write off bytes v) → s'.reply = t'.reply)
      ∧ (∀ (off : BitVec 12) (bytes : Nat), s.events.head? = some (.read off bytes) →
          ∃ error p q, s'.reply = some ⟨error, p⟩ ∧ t'.reply = some ⟨error, q⟩
            ∧ p.extractLsb' 1 31 = q.extractLsb' 1 31
            ∧ (off ≠ 0x008 ∨ bytes ≠ 4 → p = q))

/-! ### Field arithmetic and tables -/

/-- R141: doubling, with its corner cases. -/
def Obligations.XtimeIsTheProductByTwo : Prop :=
  (∀ b : Byte, (xtime b).toNat = if b.toNat < 128 then 2 * b.toNat else (2 * b.toNat - 256) ^^^ 0x1B)
  ∧ (∀ b : Byte, xtime b = polyMul 0x02 b)
  ∧ xtime 0x80 = 0x1B ∧ xtime 0xFF = 0xE5 ∧ xtime 0 = 0 ∧ xtime 0x57 = 0xAE

/-- R142: the powers of {03}. -/
def Obligations.PowerTableMultipliesByThree : Prop :=
  pow 0 = 0x01 ∧ (∀ i, i < 255 → pow (i + 1) = pow i ^^^ xtime (pow i))
  ∧ (List.range 9).map pow = [0x01, 0x03, 0x05, 0x0F, 0x11, 0x33, 0x55, 0xFF, 0x1A]
  ∧ pow 254 = 0xF6 ∧ pow 255 = 0x01

/-- R143, R144: LOG inverts POW, and POW[0..254] is a permutation of 1..255. -/
def Obligations.LogInvertsThePowerTable : Prop :=
  (∀ i, i < 255 → (log (pow i)).toNat = i) ∧ log 0x01 = 0 ∧ log 0 = 0
  ∧ (∀ x : Byte, x ≠ 0 → (log x).toNat < 255 ∧ pow (log x).toNat = x)
  ∧ (∀ i, i < 255 → pow i ≠ 0)
  ∧ (∀ i j, i < 255 → j < 255 → pow i = pow j → i = j)
  ∧ log 0x02 = 25 ∧ log 0x03 = 1 ∧ log 0x05 = 2 ∧ log 0xFF = 7 ∧ log 0x80 = 175

/-- R145: gmul, its laws, and that it is the product of polynomials modulo 0x11B (R140). -/
def Obligations.FieldProductIsThePolynomialProduct : Prop :=
  (∀ a b : Byte, a ≠ 0 → b ≠ 0 → gmul a b = pow (((log a).toNat + (log b).toNat) % 255))
  ∧ (∀ a b : Byte, gmul a b = gmul b a) ∧ (∀ b : Byte, gmul 1 b = b) ∧ (∀ b : Byte, gmul 0 b = 0)
  ∧ (∀ a b : Byte, gmul a b = polyMul a b)
  ∧ gmul 0x57 0x83 = 0xC1 ∧ gmul 0x57 0x13 = 0xFE

/-- R146: ginv is the multiplicative inverse. -/
def Obligations.EveryNonzeroByteHasItsInverse : Prop :=
  ginv 0 = 0 ∧ (∀ x : Byte, x ≠ 0 → ginv x = pow (255 - (log x).toNat) ∧ gmul x (ginv x) = 1)
  ∧ ginv 1 = 1 ∧ ginv 0x53 = 0xCA ∧ ginv 0x02 = 0x8D

/-- R147 to R149, R162: the S-boxes are inverse permutations, with the values the rules print. -/
def Obligations.SboxesAreInversePermutations : Prop :=
  (∀ x : Byte, sbox x = affine (ginv x)) ∧ (∀ x : Byte, invSbox (sbox x) = x) ∧ (∀ x : Byte, sbox (invSbox x) = x)
  ∧ (∀ x y : Byte, sbox x = sbox y → x = y)
  ∧ sbox 0x00 = 0x63 ∧ sbox 0x01 = 0x7C ∧ sbox 0x10 = 0xCA ∧ sbox 0x53 = 0xED ∧ sbox 0xFF = 0x16
  ∧ invSbox 0x00 = 0x52 ∧ invSbox 0x63 = 0x00 ∧ invSbox 0xED = 0x53 ∧ invSbox 0x16 = 0xFF

/-- R150, R163: the round constants double, and RCONW puts one in lane 0. -/
def Obligations.RoundConstantsDouble : Prop :=
  rcon 0 = 0x01 ∧ (∀ j, j < 31 → rcon (j + 1) = xtime (rcon j))
  ∧ (List.range 32).map rcon =
      [0x01, 0x02, 0x04, 0x08, 0x10, 0x20, 0x40, 0x80, 0x1B, 0x36, 0x6C, 0xD8, 0xAB, 0x4D, 0x9A, 0x2F,
       0x5E, 0xBC, 0x63, 0xC6, 0x97, 0x35, 0x6A, 0xD4, 0xB3, 0x7D, 0xFA, 0xEF, 0xC5, 0x91, 0x39, 0x72]
  ∧ ∀ (o : ByteOrder) (j : Nat), rconW o j = mkword o (rcon j) 0x00 0x00 0x00

/-- R151, R152, R154 to R157: every lane of every round table and plain-substitution table, in both orders. -/
def Obligations.LanesOfTheRoundTables : Prop :=
  ∀ (o : ByteOrder) (x : Byte),
    ft0 o x = mkword o (gmul 0x02 (sbox x)) (sbox x) (sbox x) (gmul 0x03 (sbox x))
    ∧ rt0 o x = mkword o (gmul 0x0E (invSbox x)) (gmul 0x09 (invSbox x)) (gmul 0x0D (invSbox x)) (gmul 0x0B (invSbox x))
    ∧ ∀ k r : Fin 4,
        lane o (ft o k x) r = lane o (ft0 o x) (r - k) ∧ lane o (rt o k x) r = lane o (rt0 o x) (r - k)
        ∧ lane o (fs o k x) r = (if r = k then sbox x else 0)
        ∧ lane o (rs o k x) r = (if r = k then invSbox x else 0)

/-- R153: as 32-bit numbers the tables rotate left by 8k under LE and right by 8k under BE. -/
def Obligations.RotatedTablesAsNumbers : Prop :=
  ∀ (k : Fin 4) (x : Byte), k ≠ 0 →
    ft .le k x = (ft0 .le x) <<< (8 * k.val) ||| (ft0 .le x) >>> (32 - 8 * k.val)
    ∧ ft .be k x = (ft0 .be x) <<< (32 - 8 * k.val) ||| (ft0 .be x) >>> (8 * k.val)
    ∧ rt .le k x = (rt0 .le x) <<< (8 * k.val) ||| (rt0 .le x) >>> (32 - 8 * k.val)
    ∧ rt .be k x = (rt0 .be x) <<< (32 - 8 * k.val) ||| (rt0 .be x) >>> (8 * k.val)

/-- R164: four table reads and three XORs are one column's substitution and mix, forward and inverse. -/
def Obligations.TablesFoldTheDiffusion : Prop :=
  ∀ (o : ByteOrder) (y0 y1 y2 y3 : Byte),
    ft o 0 y0 ^^^ ft o 1 y1 ^^^ ft o 2 y2 ^^^ ft o 3 y3
      = mixColumn o (mkword o (sbox y0) (sbox y1) (sbox y2) (sbox y3))
    ∧ rt o 0 y0 ^^^ rt o 1 y1 ^^^ rt o 2 y2 ^^^ rt o 3 y3
      = invMixColumn o (mkword o (invSbox y0) (invSbox y1) (invSbox y2) (invSbox y3))

/-- R160, R161: the two diffusion transforms by lanes, the inverse in its table form, that it undoes the forward one, and
the rules' example. -/
def Obligations.InverseDiffusionUndoesDiffusion : Prop :=
  (∀ (o : ByteOrder) (W : Word) (r : Fin 4), lane o (mixColumn o W) r
    = gmul 2 (lane o W r) ^^^ gmul 3 (lane o W (r + 1)) ^^^ lane o W (r + 2) ^^^ lane o W (r + 3))
  ∧ (∀ (o : ByteOrder) (W : Word) (r : Fin 4), lane o (invMixColumn o W) r
    = gmul 14 (lane o W r) ^^^ gmul 11 (lane o W (r + 1)) ^^^ gmul 13 (lane o W (r + 2)) ^^^ gmul 9 (lane o W (r + 3)))
  ∧ (∀ (o : ByteOrder) (W : Word), invMixColumn o W = rt o 0 (sbox (lane o W 0)) ^^^ rt o 1 (sbox (lane o W 1))
      ^^^ rt o 2 (sbox (lane o W 2)) ^^^ rt o 3 (sbox (lane o W 3)))
  ∧ (∀ (o : ByteOrder) (W : Word), invMixColumn o (mixColumn o W) = W)
  ∧ ∀ o : ByteOrder, mixColumn o (mkword o 0xDB 0x13 0x53 0x45) = mkword o 0x8E 0x4D 0xA1 0xBC
      ∧ invMixColumn o (mkword o 0x8E 0x4D 0xA1 0xBC) = mkword o 0xDB 0x13 0x53 0x45

/-- R158, R159: SubWord and RotWord by lanes, and RotWord as a rotation of the 32-bit number. -/
def Obligations.SubWordAndRotWord : Prop :=
  (∀ (o : ByteOrder) (W : Word), subWord o W
    = mkword o (sbox (lane o W 0)) (sbox (lane o W 1)) (sbox (lane o W 2)) (sbox (lane o W 3)))
  ∧ (∀ (o : ByteOrder) (W : Word), rotWord o W = mkword o (lane o W 1) (lane o W 2) (lane o W 3) (lane o W 0))
  ∧ ∀ W : Word, rotWord .le W = W <<< 24 ||| W >>> 8 ∧ rotWord .be W = W <<< 8 ||| W >>> 24

/-! ### Key schedule -/

/-- R200 to R206: the number of words, the initial words and the recurrence, for the three key lengths. -/
def Obligations.KeyExpansionRecurrence : Prop :=
  ∀ (b : Build) (keybits : BitVec 9) (s : State), KeybitsWellFormed keybits = true →
    let nk := nkOf keybits
    let nr := nrOf nk
    let w := expandedKey b keybits s
    (nk, nr, w.length) ∈ [(4, 10, 44), (6, 12, 52), (8, 14, 60)]
    ∧ (∀ j : Fin 8, j.val < nk → w.getD j.val 0 = marshalIn b s.key[j])
    ∧ ∀ i, nk ≤ i → i < 4 * (nr + 1) → w.getD i 0 = w.getD (i - nk) 0 ^^^
        (if i % nk = 0 then subWord b.internal (rotWord b.internal (w.getD (i - 1) 0)) ^^^ rconW b.internal (i / nk - 1)
         else if nk = 8 ∧ i % 8 = 4 then subWord b.internal (w.getD (i - 1) 0)
         else w.getD (i - 1) 0)

/-- R211, with R207 and R208: what a SETUP_KEY in progress leaves in every piece of state. -/
def Obligations.SetupKeyCompletes : Prop :=
  ∀ (keybits : BitVec 9) (mode : BitVec 2) (s : State), s.busy = true → setupKeyLegal keybits mode = true →
    let nr := nrOf (nkOf keybits)
    let n := 4 * (nr + 1)
    let w := expandedKey Config.build keybits s
    ∃ t, exec (.setupKey keybits mode) s = .next t
      ∧ (∀ i : Fin 60, t.ek[i] = if i.val < n then w.getD i.val 0 else 0)
      ∧ (∀ i : Fin 60, t.dk[i] =
          if mode.getLsbD 1 = true ∧ i.val < n then
            (if i.val < 4 ∨ 4 * nr ≤ i.val then w.getD i.val 0 else invMixColumn Config.build.internal (w.getD i.val 0))
          else 0)
      ∧ t.nr.toNat = nr ∧ t.encValid = mode.getLsbD 0 ∧ t.decValid = mode.getLsbD 1
      ∧ t.busy = false ∧ t.done = true
      ∧ t = { s with ek := t.ek, dk := t.dk, nr := t.nr, encValid := t.encValid, decValid := t.decValid,
                     busy := false, done := true }

/-- R212: after a SETUP_KEY completion EK, DK, NR and the VALID bits are a function of `KEY[0..Nk-1]`, KEYBITS and MODE alone,
and the schedules read back alike under either internal order. -/
def Obligations.SetupKeyDependsOnItsOperandsAlone : Prop :=
  ∀ (i1 i2 e : ByteOrder) (keybits : BitVec 9) (mode : BitVec 2) (s1 s2 : State),
    setupKeyLegal keybits mode = true → s1.busy = true → s2.busy = true →
    (∀ j : Fin 8, j.val < nkOf keybits → s1.key[j] = s2.key[j]) →
    ∃ t1 t2, setupKeyIn ⟨i1, e⟩ keybits mode s1 = .next t1 ∧ setupKeyIn ⟨i2, e⟩ keybits mode s2 = .next t2
      ∧ t1.nr = t2.nr ∧ t1.encValid = t2.encValid ∧ t1.decValid = t2.decValid
      ∧ (i1 = i2 → t1.ek = t2.ek ∧ t1.dk = t2.dk)
      ∧ ∀ i : Fin 60, marshalOut ⟨i1, e⟩ t1.ek[i] = marshalOut ⟨i2, e⟩ t2.ek[i]
          ∧ marshalOut ⟨i1, e⟩ t1.dk[i] = marshalOut ⟨i2, e⟩ t2.dk[i]

/-- R210, R334, R113, R114, R332: a ready, idle block accepts a SETUP_KEY with legal operands; with MODE = 0, or another
KEYBITS than 128, 192 and 256, it writes ERR = 2 and nothing else. -/
def Obligations.SetupKeyIsAcceptedOrRejected : Prop :=
  (∀ (keybits : BitVec 9) (mode : BitVec 2) (s : State), s.ready = true → s.busy = false →
    setupKeyLegal keybits mode = true →
    exec (.setupKey keybits mode) s = .next { s with cur := encode (.setupKey keybits mode), busy := true, done := false,
                                                     err := 0, encValid := false, decValid := false })
  ∧ ∀ (keybits : BitVec 9) (mode : BitVec 2) (s : State), s.ready = true → s.busy = false →
    (mode = 0 ∨ keybits.toNat ∉ [128, 192, 256]) →
    exec (.setupKey keybits mode) s = .next { s with err := 2 }

/-! ### Round engine -/

/-- R261: ENCRYPT in progress writes the cipher of DIN to DOUT_W, and the host then reads it packed in the external order. -/
def Obligations.EncryptCompletes : Prop :=
  ∀ s : State, s.busy = true →
    let Z := cipher Config.build.internal s.ek s.nr.toNat (s.din.map (marshalIn Config.build))
    ∃ t, exec .encrypt s = .next t ∧ t = { s with doutW := Z, busy := false, done := true }
      ∧ ∀ c : Fin 4, readRegister Config.build t (.dout c) = marshalOut Config.build Z[c]
          ∧ readRegister Config.build t (.dout c) = pack Config.build.external (lane Config.build.internal Z[c] 0)
              (lane Config.build.internal Z[c] 1) (lane Config.build.internal Z[c] 2) (lane Config.build.internal Z[c] 3)

/-- R271: DECRYPT in progress writes the inverse cipher of DIN to DOUT_W. -/
def Obligations.DecryptCompletes : Prop :=
  ∀ s : State, s.busy = true →
    let Z := invCipher Config.build.internal s.dk s.nr.toNat (s.din.map (marshalIn Config.build))
    exec .decrypt s = .next { s with doutW := Z, busy := false, done := true }

/-- R260, R270, R334, R331, R332: a ready, idle block accepts ENCRYPT and DECRYPT if their schedule is valid, and otherwise
writes ERR = 3 and nothing else. -/
def Obligations.EncryptAndDecryptNeedTheirSchedule : Prop :=
  (∀ s : State, s.ready = true → s.busy = false →
    (s.encValid = true → exec .encrypt s = .next { s with cur := 0x00000002, busy := true, done := false, err := 0 })
    ∧ (s.encValid = false → exec .encrypt s = .next { s with err := 3 }))
  ∧ ∀ s : State, s.ready = true → s.busy = false →
    (s.decValid = true → exec .decrypt s = .next { s with cur := 0x00000003, busy := true, done := false, err := 0 })
    ∧ (s.decValid = false → exec .decrypt s = .next { s with err := 3 })

/-- R251 to R255, R164: the table-driven cipher is the FIPS-197 Cipher on the block's bytes, for every schedule, number of
rounds and block. -/
def Obligations.CipherIsTheTextbookCipher : Prop :=
  ∀ (o : ByteOrder) (ek : Words 60) (nr : Nat) (X : Words 4),
    bytesOf o (cipher o ek nr X) = textbookCipher (keyBytes o ek) nr (bytesOf o X)

/-- R207, R253, R254, R256, R257: with the decrypt schedule of EK, the table-driven inverse cipher is the FIPS-197 InvCipher
under EK, whose round keys are not transformed. -/
def Obligations.InverseCipherIsTheTextbookInverseCipher : Prop :=
  ∀ (o : ByteOrder) (ek dk : Words 60) (nr : Nat) (X : Words 4), nr ≤ 14 → DecryptScheduleOf o nr ek dk →
    bytesOf o (invCipher o dk nr X) = textbookInvCipher (keyBytes o ek) nr (bytesOf o X)

/-- R258: for every key, every legal KEYBITS and every block, decryption undoes encryption; and, R270(c), encryption undoes
decryption. -/
def Obligations.DecryptionUndoesEncryption : Prop :=
  ∀ (b : Build) (keybits : BitVec 9) (mode : BitVec 2) (s : State) (X : Words 4),
    setupKeyLegal keybits mode = true → mode.getLsbD 1 = true →
    let nr := nrOf (nkOf keybits)
    let ek := ekStorage nr (expandedKey b keybits s)
    let dk := dkStorage b.internal mode nr (expandedKey b keybits s)
    invCipher b.internal dk nr (cipher b.internal ek nr X) = X
    ∧ cipher b.internal ek nr (invCipher b.internal dk nr X) = X

/-- R258 through the registers: in every state that meets the invariants, with both schedules valid and the block quiescent,
ENCRYPT of DIN, the host's copy of DOUT0..3 to DIN0..3 and DECRYPT put the first DIN words into DOUT0..3. -/
def Obligations.RoundTripThroughTheRegisters : Prop :=
  ∀ s : State, BlockInv s → ScheduleInv Config.build s → Quiescent s → s.encValid = true → s.decValid = true →
    ∃ t u,
      Sys2Proof.core.run 2 { s with events := [asmWr 0x000 0x00000002, .complete] } = .next t
      ∧ (let copy := asmLdBlk (readRegister Config.build t (.dout 0)) (readRegister Config.build t (.dout 1))
            (readRegister Config.build t (.dout 2)) (readRegister Config.build t (.dout 3))
         Sys2Proof.core.run 6 { t with events := copy ++ [asmWr 0x000 0x00000003, .complete] } = .next u)
      ∧ ∀ c : Fin 4, readRegister Config.build u (.dout c) = s.din[c]

/-! ### Register window -/

/-- R72: the map gives each register its offset, and exactly the offsets of the table's gaps are reserved. -/
def Obligations.RegisterMap : Prop :=
  (∀ (r : Register) (off : Nat), registerOffset r = some off → registerAt off = r ∧ off % 4 = 0 ∧ off < 0x1000)
  ∧ ∀ off : Nat, off < 0x1000 → off % 4 = 0 →
      (registerAt off = .reserved ↔ 0x00C ≤ off ∧ off ≤ 0x01C ∨ 0x060 ≤ off ∧ off ≤ 0x0FC ∨ 0x1F0 ≤ off ∧ off ≤ 0x1FC
        ∨ 0x2F0 ≤ off ∧ off ≤ 0x2FC ∨ 0x380 ≤ off ∧ off ≤ 0x3FC)

/-- R71: exactly the 4096 host addresses from BASE_ADDR on, which is aligned, reach the block, each at its offset. -/
def Obligations.WindowOfHostAddresses : Prop :=
  Config.baseAddr % 4096 = 0
  ∧ (∀ off : BitVec 12, windowOffset (Config.baseAddr + off.toNat) = some off)
  ∧ ∀ A off, windowOffset A = some off → A = Config.baseAddr + off.toNat

/-- R73 to R76: an access that is misaligned or not 4 bytes wide ends with an error response, data 0, and changes no state of
the block. -/
def Obligations.MisalignedOrNarrowAccessIsABusError : Prop :=
  ∀ (s : State) (off : BitVec 12) (bytes : Nat) (v : Word) (rest : List Event), (bytes ≠ 4 ∨ off.toNat % 4 ≠ 0) →
    (s.events = .read off bytes :: rest → step s = .next { s with events := rest, reply := some ⟨true, 0⟩ })
    ∧ (s.events = .write off bytes v :: rest → step s = .next { s with events := rest, reply := some ⟨true, 0⟩ })

/-- R79, R80, R40, R84 to R86: an aligned 4-byte read answers the register's value and changes no state of the block, and a
second read of it answers the same; in every state, busy or not, CMD reads 0, KEYj, DINc and DOUTc read KEY[j], DIN[c] and
marshal_out(DOUT_W[c]), and ENC_RKi and DEC_RKi read marshal_out(EK[i]) and marshal_out(DK[i]). -/
def Obligations.ReadsHaveNoSideEffect : Prop :=
  (∀ (s : State) (off : BitVec 12) (rest : List Event), s.events = .read off 4 :: rest → off.toNat % 4 = 0 →
    step s = .next { s with events := rest, reply := some ⟨false, readRegister Config.build s (registerAt off.toNat)⟩ }
    ∧ ∀ t, step s = .next t → step { t with events := .read off 4 :: rest } = .next t)
  ∧ ∀ (s : State) (off : BitVec 12) (rest : List Event), s.events = .read off 4 :: rest →
    (off.toNat = 0x000 → step s = .next { s with events := rest, reply := some ⟨false, 0⟩ })
    ∧ (∀ j : Fin 8, off.toNat = 0x020 + 4 * j.val →
        step s = .next { s with events := rest, reply := some ⟨false, s.key[j]⟩ })
    ∧ (∀ c : Fin 4, off.toNat = 0x040 + 4 * c.val →
        step s = .next { s with events := rest, reply := some ⟨false, s.din[c]⟩ })
    ∧ (∀ c : Fin 4, off.toNat = 0x050 + 4 * c.val →
        step s = .next { s with events := rest, reply := some ⟨false, marshalOut Config.build s.doutW[c]⟩ })
    ∧ (∀ i : Fin 60, off.toNat = 0x100 + 4 * i.val →
        step s = .next { s with events := rest, reply := some ⟨false, marshalOut Config.build s.ek[i]⟩ })
    ∧ ∀ i : Fin 60, off.toNat = 0x200 + 4 * i.val →
        step s = .next { s with events := rest, reply := some ⟨false, marshalOut Config.build s.dk[i]⟩ }

/-- R82: the register at 0x004 reads STATUS_VALUE, every bit of it, and its three worked values. -/
def Obligations.StatusBits : Prop :=
  (∀ (b : Build) (s : State), registerAt 0x004 = .status ∧ readRegister b s .status = statusValue s)
  ∧ (∀ s : State, (statusValue s).getLsbD 0 = s.ready ∧ (statusValue s).getLsbD 1 = s.busy
    ∧ (statusValue s).getLsbD 2 = s.done ∧ (statusValue s).getLsbD 3 = s.encValid
    ∧ (statusValue s).getLsbD 4 = s.decValid ∧ (statusValue s).extractLsb' 5 3 = 0
    ∧ (statusValue s).extractLsb' 8 4 = s.err ∧ (statusValue s).extractLsb' 12 4 = 0
    ∧ (statusValue s).extractLsb' 16 4 = s.nr ∧ (statusValue s).extractLsb' 20 12 = 0)
  ∧ statusValue State.reset = 0x00000000 ∧ statusValue (tableGen State.reset) = 0x00000001
  ∧ ∀ s t : State, s.ready = true → s.busy = true → s.err = 0 → exec (.setupKey 128 3) s = .next t →
      statusValue t = 0x000A001D

/-- R83: the register at 0x008 reads PARAMS_VALUE, the same in every state. -/
def Obligations.ParamsBits : Prop :=
  ∀ (b : Build) (s : State), registerAt 0x008 = .params ∧ readRegister b s .params = paramsValue b
    ∧ (paramsValue b).getLsbD 0 = decide (b.internal = .be) ∧ (paramsValue b).getLsbD 1 = decide (b.external = .be)
    ∧ (paramsValue b).extractLsb' 2 30 = 0

/-- R81, R41, R42, R376: a KEY or DIN write is stored while BUSY = 0 and dropped while BUSY = 1, and after a write while
BUSY = 0 the register reads the word. That the answer to a write carries data 0 is the model's choice (log 4). -/
def Obligations.KeyAndDinWrites : Prop :=
  ∀ (s : State) (off : BitVec 12) (v : Word) (rest : List Event), s.events = .write off 4 v :: rest →
    (∀ j : Fin 8, off.toNat = 0x020 + 4 * j.val →
      step s = .next { s with key := if s.busy then s.key else s.key.set j v, events := rest, reply := some ⟨false, 0⟩ }
      ∧ ∀ t, step s = .next t → s.busy = false → readRegister Config.build t (.key j) = v)
    ∧ (∀ c : Fin 4, off.toNat = 0x040 + 4 * c.val →
      step s = .next { s with din := if s.busy then s.din else s.din.set c v, events := rest, reply := some ⟨false, 0⟩ }
      ∧ ∀ t, step s = .next t → s.busy = false → readRegister Config.build t (.din c) = v)

/-- R78 (and R77 for a write): an aligned 4-byte write to a register other than CMD, KEY and DIN changes no state of the
block and raises no error. The data of the answer is left open. -/
def Obligations.WritesToReadOnlyRegistersAreIgnored : Prop :=
  ∀ (s : State) (off : BitVec 12) (v : Word) (rest : List Event), s.events = .write off 4 v :: rest → off.toNat % 4 = 0 →
    registerAt off.toNat ≠ .cmd → (∀ j, registerAt off.toNat ≠ .key j) → (∀ c, registerAt off.toNat ≠ .din c) →
    ∃ r : Reply, step s = .next { s with events := rest, reply := some r } ∧ r.error = false

/-- R77: a reserved offset reads as zero and ignores writes, without an error; a misaligned or narrow access to it is a bus
error. The data of the answer to a write without an error is left open. -/
def Obligations.ReservedOffsetsReadZero : Prop :=
  ∀ (s : State) (off : BitVec 12) (bytes : Nat) (v : Word) (rest : List Event), registerAt off.toNat = .reserved →
    (s.events = .read off bytes :: rest →
      step s = .next { s with events := rest, reply := some ⟨decide (bytes ≠ 4 ∨ off.toNat % 4 ≠ 0), 0⟩ })
    ∧ (s.events = .write off bytes v :: rest →
      ∃ r : Reply, step s = .next { s with events := rest, reply := some r }
        ∧ r.error = decide (bytes ≠ 4 ∨ off.toNat % 4 ≠ 0) ∧ (r.error = true → r.data = 0))

/-- R86: the schedule views show lane r of a schedule word as byte r of the bus word, and words past the schedule read 0. -/
def Obligations.ScheduleViews : Prop :=
  (∀ (b : Build) (s : State) (i : Fin 60) (r : Fin 4),
    unpack b.external (readRegister b s (.encRk i)) r = lane b.internal s.ek[i] r
    ∧ unpack b.external (readRegister b s (.decRk i)) r = lane b.internal s.dk[i] r)
  ∧ ∀ (b : Build) (s : State) (i : Fin 60), BlockInv s → 4 * (s.nr.toNat + 1) ≤ i.val →
    readRegister b s (.encRk i) = 0 ∧ readRegister b s (.decRk i) = 0

/-- R87 to R89: the table views, before and after READY. -/
def Obligations.TableViews : Prop :=
  (∀ (b : Build) (s : State), s.ready = false → ∀ (j : Fin 32) (i : Fin 256),
    readRegister b s (.rcon j) = 0 ∧ readRegister b s (.gftbl i) = 0 ∧ readRegister b s (.ft0w i) = 0
    ∧ readRegister b s (.rt0w i) = 0)
  ∧ ∀ (b : Build) (s : State), s.ready = true → ∀ (j : Fin 32) (i : Fin 256) (r : Fin 4),
    (readRegister b s (.rcon j)).toNat = (rcon j.val).toNat
    ∧ (readRegister b s (.gftbl i)).extractLsb' 0 8 = sbox (BitVec.ofNat 8 i.val)
    ∧ (readRegister b s (.gftbl i)).extractLsb' 8 8 = invSbox (BitVec.ofNat 8 i.val)
    ∧ (readRegister b s (.gftbl i)).extractLsb' 16 8 = pow i.val
    ∧ (readRegister b s (.gftbl i)).extractLsb' 24 8 = log (BitVec.ofNat 8 i.val)
    ∧ unpack b.external (readRegister b s (.ft0w i)) r = lane b.internal (ft0 b.internal (BitVec.ofNat 8 i.val)) r
    ∧ unpack b.external (readRegister b s (.rt0w i)) r = lane b.internal (rt0 b.internal (BitVec.ofNat 8 i.val)) r

/-! ### Command lifecycle -/

/-- R333, R334: the CMD write checks READY, BUSY, the form of the word, its operand values and the schedule, in this order,
and otherwise accepts the word as written. -/
def Obligations.CommandWriteChecksInOrder : Prop :=
  ∀ (v : Word) (s : State), commandWrite exec v s =
    if s.ready = false then .next { s with err := 5 }
    else if s.busy = true then .next { s with err := 4 }
    else match decode v with
      | .illegal => .next { s with err := 1 }
      | .invalid => .next { s with err := 2 }
      | .command .encrypt =>
        if s.encValid = false then .next { s with err := 3 }
        else .next { s with cur := v, busy := true, done := false, err := 0 }
      | .command .decrypt =>
        if s.decValid = false then .next { s with err := 3 }
        else .next { s with cur := v, busy := true, done := false, err := 0 }
      | .command (.setupKey _ _) =>
        .next { s with cur := v, busy := true, done := false, err := 0, encValid := false, decValid := false }

/-- A step runs the decoded command: at the aligned 4-byte write of a word to CMD on a ready, idle block (R333), and at a
completion step of the legal command in CUR (R335). The model's choices: exec holds both steps of a command (log 1), the
events are a list (log 2), with none left the core takes its enabled step (log 3), and the answer to a write carries data 0
(log 4). -/
def Obligations.StepRunsTheDecodedCommand : Prop :=
  (∀ (s : State) (v : Word) (i : Instr) (rest : List Event), s.events = .write 0x000 4 v :: rest → s.ready = true →
    s.busy = false → decodeWord v = some i →
    step s = exec i { s with events := rest, reply := some ⟨false, 0⟩ })
  ∧ (∀ (s : State) (i : Instr) (rest : List Event), s.events = .complete :: rest → s.busy = true →
    decode s.cur = .command i → step s = exec i { s with events := rest })
  ∧ ∀ (s : State) (i : Instr), s.events = [] → s.ready = true → s.busy = true → decode s.cur = .command i →
    step s = exec i s

/-- R332, R331: a rejection writes its code to ERR and nothing else, at every CMD write, whatever the cause. The answer of
the bus is left open. -/
def Obligations.RejectionWritesErrOnly : Prop :=
  ∀ (s t : State) (v : Word) (rest : List Event), s.events = .write 0x000 4 v :: rest → step s = .next t →
    (t.err ≠ 0 → t = { s with err := t.err, events := rest, reply := t.reply })
    ∧ (t.err = 0 → t.cur = v ∧ t.busy = true ∧ t.done = false)
    ∧ (t.err = 0 ∨ t.err = 1 ∨ t.err = 2 ∨ t.err = 3 ∨ t.err = 4 ∨ t.err = 5)

/-- R175, R176: TABLE_GEN sets READY and nothing else, comes by itself when the host is silent, and does nothing once READY
is 1. That it comes when no event is left is the model's choice (log 3), and so is that an event of a step that is not enabled
does nothing (log 2). -/
def Obligations.GenerationStep : Prop :=
  (∀ (s : State) (rest : List Event), s.events = .generate :: rest → step s = .next { s with ready := true, events := rest })
  ∧ ∀ s : State, s.events = [] → s.ready = false → step s = .next { s with ready := true }

/-- R51, R370, R372: reset leaves every element of the spec's state 0, whatever was in progress. -/
def Obligations.ResetClearsEverything : Prop :=
  ∀ (s : State) (rest : List Event), s.events = .reset :: rest →
    ∃ t, step s = .next t ∧ SameBlock State.reset t ∧ t.events = rest
      ∧ t.ready = false ∧ t.busy = false ∧ t.done = false ∧ t.err = 0 ∧ t.encValid = false ∧ t.decValid = false
      ∧ t.nr = 0 ∧ t.cur = 0 ∧ (∀ j : Fin 8, t.key[j] = 0) ∧ (∀ c : Fin 4, t.din[c] = 0 ∧ t.doutW[c] = 0)
      ∧ ∀ i : Fin 60, t.ek[i] = 0 ∧ t.dk[i] = 0

/-- R383: a quiescent block takes no step of its own. That the model's step is then one that changes nothing, where the spec
has no step, is the model's choice (log 3), and so is that an event of a step that is not enabled does nothing (log 2). -/
def Obligations.QuiescentBlockRests : Prop :=
  ∀ (s : State) (rest : List Event), Quiescent s →
    (s.events = [] → step s = .next s)
    ∧ (s.events = .generate :: rest → step s = .next { s with events := rest })
    ∧ (s.events = .complete :: rest → step s = .next { s with events := rest })

/-- The frame of SETUP_KEY, ENCRYPT and DECRYPT, both at the CMD write (BUSY = 0) and at the completion (BUSY = 1): what each
leaves unchanged whenever it answers a next state (R49, R210, R260, R270, R332). The block has no byte memory. -/
def Obligations.FrameOfTheCommands : Prop :=
  ∀ (i : Instr) (s t : State), exec i s = .next t →
    (t.ready = s.ready ∧ t.key = s.key ∧ t.din = s.din ∧ t.events = s.events ∧ t.reply = s.reply)
    ∧ (s.busy = false → t.ek = s.ek ∧ t.dk = s.dk ∧ t.nr = s.nr ∧ t.doutW = s.doutW)
    ∧ (s.busy = true → t.err = s.err ∧ t.cur = s.cur)
    ∧ (s.busy = true → (∃ keybits mode, i = .setupKey keybits mode) → t.doutW = s.doutW)
    ∧ (i = .encrypt ∨ i = .decrypt →
        t.ek = s.ek ∧ t.dk = s.dk ∧ t.nr = s.nr ∧ t.encValid = s.encValid ∧ t.decValid = s.decValid)

/-! ### Whole-machine rules -/

/-- R50, R51: the invariants (a) to (f) hold at reset, and so do those of the schedules. -/
def Obligations.InvariantsHoldAtReset : Prop :=
  BlockInv State.reset ∧ ∀ b : Build, ScheduleInv b State.reset

/-- R50: every step keeps the invariants (a) to (f). -/
def Obligations.EveryStepKeepsTheInvariants : Prop :=
  ∀ s t : State, BlockInv s → step s = .next t → BlockInv t

/-- R333, R334, R211, R332: every step keeps that a block command in progress has its schedule and that the schedules are
those of one SETUP_KEY. -/
def Obligations.EveryStepKeepsTheSchedules : Prop :=
  ∀ s t : State, ScheduleInv Config.build s → step s = .next t → ScheduleInv Config.build t

/-- R336: no step from a state that meets the invariants faults or is refused. -/
def Obligations.NoStepFails : Prop :=
  ∀ s : State, BlockInv s → ∃ t, step s = .next t

/-- R336, R382: from every state that meets the invariants, the pending events and one step more end in a quiescent block:
the generation and every accepted command complete. -/
def Obligations.EveryRunBecomesQuiescent : Prop :=
  ∀ s : State, BlockInv s → ∃ t, Sys2Proof.core.run (s.events.length + 1) s = .next t ∧ Quiescent t ∧ t.events = []

/-- R81, R332, R333, R376: while a command is in progress, no sequence of host accesses changes anything of the block but
ERR, which a CMD write sets to 4. -/
def Obligations.HostAccessesWhileBusyAreDropped : Prop :=
  ∀ (s : State) (es rest : List Event), s.ready = true → s.busy = true → (∀ e ∈ es, isHostAccess e = true) →
    ∃ t, Sys2Proof.core.run es.length { s with events := es ++ rest } = .next t
      ∧ t = { s with err := t.err, events := rest, reply := t.reply } ∧ (t.err = s.err ∨ t.err = 4)

/-- R33, R41, R42: only reset clears READY and only generation sets it; only a host write of the register while BUSY = 0, or a
reset, changes a KEY or DIN word. -/
def Obligations.WhoWritesReadyKeyAndDin : Prop :=
  ∀ s t : State, step s = .next t →
    (t.ready ≠ s.ready → GenerationNext s ∧ t.ready = true ∨ ResetNext s)
    ∧ (∀ j : Fin 8, t.key[j] ≠ s.key[j] → (s.busy = false ∧ ∃ v, WriteNext s (.key j) v ∧ t.key[j] = v) ∨ ResetNext s)
    ∧ (∀ c : Fin 4, t.din[c] ≠ s.din[c] → (s.busy = false ∧ ∃ v, WriteNext s (.din c) v ∧ t.din[c] = v) ∨ ResetNext s)

/-- R39, R43 to R45: only the completion of a SETUP_KEY, or a reset, changes NR, EK or DK; only the completion of an ENCRYPT or
DECRYPT, or a reset, changes DOUT_W. -/
def Obligations.WhoWritesTheSchedulesAndTheOutput : Prop :=
  ∀ s t : State, step s = .next t →
    (t.nr ≠ s.nr ∨ t.ek ≠ s.ek ∨ t.dk ≠ s.dk →
      (CompletionNext s ∧ ∃ keybits mode, decode s.cur = .command (.setupKey keybits mode)) ∨ ResetNext s)
    ∧ (t.doutW ≠ s.doutW →
      (CompletionNext s ∧ (decode s.cur = .command .encrypt ∨ decode s.cur = .command .decrypt)) ∨ ResetNext s)

/-- R34 to R38, R40, R49: only a CMD write or a reset changes ERR or CUR; BUSY rises at a CMD write that is accepted, with
CUR the word, ERR = 0 and DONE = 0, and falls at a completion, which sets DONE, or a reset; DONE rises at a completion and
falls at an accept or a reset; a VALID bit rises at the completion of a SETUP_KEY whose MODE has its bit, and changes at no
other step than such a completion, which sets both bits to MODE, the accept of a SETUP_KEY, which clears both, or a reset; a
reset clears them all. -/
def Obligations.WhoWritesTheFlags : Prop :=
  ∀ s t : State, step s = .next t →
    (t.err ≠ s.err ∨ t.cur ≠ s.cur → (∃ v, WriteNext s .cmd v) ∨ ResetNext s)
    ∧ (t.busy = true → s.busy = false → ∃ v, WriteNext s .cmd v ∧ t.cur = v ∧ t.err = 0 ∧ t.done = false)
    ∧ (t.busy = false → s.busy = true → CompletionNext s ∧ t.done = true ∨ ResetNext s)
    ∧ (t.done = true → s.done = false → CompletionNext s)
    ∧ (t.done = false → s.done = true → (∃ v, WriteNext s .cmd v ∧ t.busy = true) ∨ ResetNext s)
    ∧ (t.encValid = true → s.encValid = false → CompletionNext s
        ∧ ∃ keybits mode, decode s.cur = .command (.setupKey keybits mode) ∧ mode.getLsbD 0 = true)
    ∧ (t.decValid = true → s.decValid = false → CompletionNext s
        ∧ ∃ keybits mode, decode s.cur = .command (.setupKey keybits mode) ∧ mode.getLsbD 1 = true)
    ∧ (t.encValid ≠ s.encValid ∨ t.decValid ≠ s.decValid →
        (CompletionNext s ∧ ∃ keybits mode, decode s.cur = .command (.setupKey keybits mode)
          ∧ t.encValid = mode.getLsbD 0 ∧ t.decValid = mode.getLsbD 1)
        ∨ (∃ v keybits mode, WriteNext s .cmd v ∧ decode v = .command (.setupKey keybits mode)
            ∧ t.busy = true ∧ t.encValid = false ∧ t.decValid = false)
        ∨ ResetNext s)
    ∧ (ResetNext s → t.busy = false ∧ t.done = false ∧ t.err = 0 ∧ t.cur = 0 ∧ t.encValid = false ∧ t.decValid = false)

/-- R345, R71: a step of one instance, which is the step of a block with its parameters, leaves every other instance as it
was; with each instance at a page of its own, each of the 4096 addresses from an instance's BASE_ADDR on reaches that instance
at its offset; an address that reaches an instance lies in its window; and a host access is an event of the instance it
reaches and of no other. The list of instances and the events are the model's form (log 2, 13). -/
def Obligations.InstancesAreIndependent : Prop :=
  (∀ (k : Nat) (platform after : List Instance), instanceStep k platform = .next after →
    after.length = platform.length
    ∧ (∀ j, j ≠ k → after[j]? = platform[j]?)
    ∧ ∀ i, platform[k]? = some i →
      ∃ t, stepIn i.build i.state = .next t ∧ after[k]? = some ⟨i.page, i.build, t⟩)
  ∧ (∀ (platform : List Instance) (k : Nat) (i : Instance) (off : BitVec 12), OwnWindows platform → platform[k]? = some i →
    reachedInstance platform (4096 * i.page + off.toNat) = some (k, off))
  ∧ (∀ (platform : List Instance) (A k : Nat) (off : BitVec 12), reachedInstance platform A = some (k, off) →
    ∃ i, platform[k]? = some i ∧ A = 4096 * i.page + off.toNat)
  ∧ ∀ (platform : List Instance) (A : Nat) (access : BitVec 12 → Event),
    (reachedInstance platform A = none → hostAccess A access platform = platform)
    ∧ ∀ k off, reachedInstance platform A = some (k, off) →
      (∀ j, j ≠ k → (hostAccess A access platform)[j]? = platform[j]?)
      ∧ ∀ i, platform[k]? = some i → (hostAccess A access platform)[k]? =
        some ⟨i.page, i.build, { i.state with events := access off :: i.state.events }⟩
end

