-- ==== Sys2Proof/Laws/Commands.lean ====
section
/-! SUPPORT. What each completion leaves in each field of the state. -/

namespace Sys2Proof.Machine

@[simp] theorem setupKeyComplete_ready (b : Build) (keybits : BitVec 9) (mode : BitVec 2) (s : State) :
    (setupKeyComplete b keybits mode s).ready = s.ready := rfl
@[simp] theorem setupKeyComplete_busy (b : Build) (keybits : BitVec 9) (mode : BitVec 2) (s : State) :
    (setupKeyComplete b keybits mode s).busy = false := rfl
@[simp] theorem setupKeyComplete_done (b : Build) (keybits : BitVec 9) (mode : BitVec 2) (s : State) :
    (setupKeyComplete b keybits mode s).done = true := rfl
@[simp] theorem setupKeyComplete_err (b : Build) (keybits : BitVec 9) (mode : BitVec 2) (s : State) :
    (setupKeyComplete b keybits mode s).err = s.err := rfl
@[simp] theorem setupKeyComplete_encValid (b : Build) (keybits : BitVec 9) (mode : BitVec 2) (s : State) :
    (setupKeyComplete b keybits mode s).encValid = modeEncrypts mode := rfl
@[simp] theorem setupKeyComplete_decValid (b : Build) (keybits : BitVec 9) (mode : BitVec 2) (s : State) :
    (setupKeyComplete b keybits mode s).decValid = modeDecrypts mode := rfl
@[simp] theorem setupKeyComplete_nr (b : Build) (keybits : BitVec 9) (mode : BitVec 2) (s : State) :
    (setupKeyComplete b keybits mode s).nr = BitVec.ofNat 4 (nrOf (nkOf keybits)) := rfl
@[simp] theorem setupKeyComplete_cur (b : Build) (keybits : BitVec 9) (mode : BitVec 2) (s : State) :
    (setupKeyComplete b keybits mode s).cur = s.cur := rfl
@[simp] theorem setupKeyComplete_key (b : Build) (keybits : BitVec 9) (mode : BitVec 2) (s : State) :
    (setupKeyComplete b keybits mode s).key = s.key := rfl
@[simp] theorem setupKeyComplete_din (b : Build) (keybits : BitVec 9) (mode : BitVec 2) (s : State) :
    (setupKeyComplete b keybits mode s).din = s.din := rfl
@[simp] theorem setupKeyComplete_doutW (b : Build) (keybits : BitVec 9) (mode : BitVec 2) (s : State) :
    (setupKeyComplete b keybits mode s).doutW = s.doutW := rfl
@[simp] theorem setupKeyComplete_ek (b : Build) (keybits : BitVec 9) (mode : BitVec 2) (s : State) :
    (setupKeyComplete b keybits mode s).ek = ekStorage (nrOf (nkOf keybits)) (expandedKey b keybits s) := rfl
@[simp] theorem setupKeyComplete_dk (b : Build) (keybits : BitVec 9) (mode : BitVec 2) (s : State) :
    (setupKeyComplete b keybits mode s).dk = dkStorage b.internal mode (nrOf (nkOf keybits)) (expandedKey b keybits s) := rfl
@[simp] theorem setupKeyComplete_events (b : Build) (keybits : BitVec 9) (mode : BitVec 2) (s : State) :
    (setupKeyComplete b keybits mode s).events = s.events := rfl
@[simp] theorem setupKeyComplete_reply (b : Build) (keybits : BitVec 9) (mode : BitVec 2) (s : State) :
    (setupKeyComplete b keybits mode s).reply = s.reply := rfl

@[simp] theorem encryptComplete_ready (b : Build) (s : State) :
    (encryptComplete b s).ready = s.ready := rfl
@[simp] theorem encryptComplete_busy (b : Build) (s : State) :
    (encryptComplete b s).busy = false := rfl
@[simp] theorem encryptComplete_done (b : Build) (s : State) :
    (encryptComplete b s).done = true := rfl
@[simp] theorem encryptComplete_err (b : Build) (s : State) :
    (encryptComplete b s).err = s.err := rfl
@[simp] theorem encryptComplete_encValid (b : Build) (s : State) :
    (encryptComplete b s).encValid = s.encValid := rfl
@[simp] theorem encryptComplete_decValid (b : Build) (s : State) :
    (encryptComplete b s).decValid = s.decValid := rfl
@[simp] theorem encryptComplete_nr (b : Build) (s : State) :
    (encryptComplete b s).nr = s.nr := rfl
@[simp] theorem encryptComplete_cur (b : Build) (s : State) :
    (encryptComplete b s).cur = s.cur := rfl
@[simp] theorem encryptComplete_key (b : Build) (s : State) :
    (encryptComplete b s).key = s.key := rfl
@[simp] theorem encryptComplete_din (b : Build) (s : State) :
    (encryptComplete b s).din = s.din := rfl
@[simp] theorem encryptComplete_doutW (b : Build) (s : State) :
    (encryptComplete b s).doutW = cipher b.internal s.ek s.nr.toNat (inputBlock b s) := rfl
@[simp] theorem encryptComplete_ek (b : Build) (s : State) :
    (encryptComplete b s).ek = s.ek := rfl
@[simp] theorem encryptComplete_dk (b : Build) (s : State) :
    (encryptComplete b s).dk = s.dk := rfl
@[simp] theorem encryptComplete_events (b : Build) (s : State) :
    (encryptComplete b s).events = s.events := rfl
@[simp] theorem encryptComplete_reply (b : Build) (s : State) :
    (encryptComplete b s).reply = s.reply := rfl

@[simp] theorem decryptComplete_ready (b : Build) (s : State) :
    (decryptComplete b s).ready = s.ready := rfl
@[simp] theorem decryptComplete_busy (b : Build) (s : State) :
    (decryptComplete b s).busy = false := rfl
@[simp] theorem decryptComplete_done (b : Build) (s : State) :
    (decryptComplete b s).done = true := rfl
@[simp] theorem decryptComplete_err (b : Build) (s : State) :
    (decryptComplete b s).err = s.err := rfl
@[simp] theorem decryptComplete_encValid (b : Build) (s : State) :
    (decryptComplete b s).encValid = s.encValid := rfl
@[simp] theorem decryptComplete_decValid (b : Build) (s : State) :
    (decryptComplete b s).decValid = s.decValid := rfl
@[simp] theorem decryptComplete_nr (b : Build) (s : State) :
    (decryptComplete b s).nr = s.nr := rfl
@[simp] theorem decryptComplete_cur (b : Build) (s : State) :
    (decryptComplete b s).cur = s.cur := rfl
@[simp] theorem decryptComplete_key (b : Build) (s : State) :
    (decryptComplete b s).key = s.key := rfl
@[simp] theorem decryptComplete_din (b : Build) (s : State) :
    (decryptComplete b s).din = s.din := rfl
@[simp] theorem decryptComplete_doutW (b : Build) (s : State) :
    (decryptComplete b s).doutW = invCipher b.internal s.dk s.nr.toNat (inputBlock b s) := rfl
@[simp] theorem decryptComplete_ek (b : Build) (s : State) :
    (decryptComplete b s).ek = s.ek := rfl
@[simp] theorem decryptComplete_dk (b : Build) (s : State) :
    (decryptComplete b s).dk = s.dk := rfl
@[simp] theorem decryptComplete_events (b : Build) (s : State) :
    (decryptComplete b s).events = s.events := rfl
@[simp] theorem decryptComplete_reply (b : Build) (s : State) :
    (decryptComplete b s).reply = s.reply := rfl

end Sys2Proof.Machine
end

