-- ==== Sys2Proof/Laws/Decode.lean ====
section
/-! SUPPORT. A word is the sequence of its fields; the fields as numbers; what the decoder's operand check says. -/

namespace Sys2Proof

/-- A word is its fields of R111, side by side. -/
theorem fields_append (v : Word) :
    reservedHigh v ++ keybitsField v ++ reservedLow v ++ modeField v ++ opField v = v := by
  apply BitVec.eq_of_getLsbD_eq
  intro i hi
  simp only [reservedHigh, keybitsField, reservedLow, modeField, opField, BitVec.getLsbD_append,
    BitVec.getLsbD_extractLsb']
  grind

/-- A word is its upper bits and its OP. -/
theorem upperBits_append (v : Word) : upperBits v ++ opField v = v := by
  apply BitVec.eq_of_getLsbD_eq
  intro i hi
  simp only [upperBits, opField, BitVec.getLsbD_append, BitVec.getLsbD_extractLsb']
  grind

theorem opField_toNat (v : Word) : (opField v).toNat = v.toNat % 16 := by
  simp [opField]

theorem modeField_toNat (v : Word) : (modeField v).toNat = v.toNat / 16 % 4 := by
  simp [modeField, Nat.shiftRight_eq_div_pow]

theorem reservedLow_toNat (v : Word) : (reservedLow v).toNat = v.toNat / 64 % 4 := by
  simp [reservedLow, Nat.shiftRight_eq_div_pow]

theorem keybitsField_toNat (v : Word) : (keybitsField v).toNat = v.toNat / 256 % 512 := by
  simp [keybitsField, Nat.shiftRight_eq_div_pow]

theorem reservedHigh_toNat (v : Word) : (reservedHigh v).toNat = v.toNat / 2 ^ 17 := by
  have := v.isLt
  simp [reservedHigh, Nat.shiftRight_eq_div_pow]
  omega

theorem upperBits_toNat (v : Word) : (upperBits v).toNat = v.toNat / 16 := by
  have := v.isLt
  simp [upperBits, Nat.shiftRight_eq_div_pow]
  omega

/-- The operand check of the decoder is well-formedness. -/
theorem operandsLegal_eq (i : Instr) : operandsLegal i = WellFormed i := by
  cases i <;> simp [operandsLegal, WellFormed, setupKeyLegal, KeybitsWellFormed, ModeWellFormed, Bool.and_comm]

/-- A command that the decoder accepts has legal operand values. -/
theorem operandsLegal_of_decode {v : Word} {i : Instr} (h : decode v = .command i) : operandsLegal i = true := by
  unfold decode at h
  split at h
  · cases h
  · split at h
    · cases h
      assumption
    · cases h

/-- The key lengths in words of a SETUP_KEY with legal operands. -/
theorem nkOf_cases {keybits : BitVec 9} {mode : BitVec 2} (h : setupKeyLegal keybits mode = true) :
    Machine.nkOf keybits = 4 ∨ Machine.nkOf keybits = 6 ∨ Machine.nkOf keybits = 8 := by
  revert h
  revert keybits mode
  decide +kernel

end Sys2Proof
end

