-- ==== Sys2Proof/Laws/Field.lean ====
section
/-! SUPPORT. The tables of the field as packed numbers, proved equal to the rules' definitions, so that table facts can be
evaluated; multiplication by the constants the round tables use, as sums of doublings. -/

namespace Sys2Proof.Machine

/-- Byte i of a table packed into one number, entry 0 lowest. -/
def byteAt (packed i : Nat) : Byte := BitVec.ofNat 8 (packed >>> (8 * i))

/-- POW[0..255], packed (spec/95_test_vectors.md section 2.2). -/
def powPacked : Nat :=
  0x01f652c7b46c241cfda297847cdd4b39170df2a794858a8f8c8d7b29ee5a36120ef351c6423ee3a891868b79de4acf45ca46cbb099772d1b0907f4a563211ffc54c543c8b16f25eaaf6523e858c1b69b80898e7adfbc9d827e2aefac64d5ba9f75dabf9c742ced5bc040c9473de25ec3413f15fa5632e75dc2b76dd24e3a16fba06020e9ae93712fecad92877d2b19fea361d6bb69271d0bf0503010f957c4b59a76db49ceb398817fdcbd6bd0b99e838878281808f1a662d74d3be0a967d44ccdb26ed3b868d14fcc443c140c04f55331e6ab9070d9be6a26eb5937e45c34e5aa66221e0a0602f7a49573d84838e15f3513f8a196722e1aff5533110f050301

/-- LOG[0..255], packed (spec/95_test_vectors.md section 2.2). -/
def logPacked : Nat :=
  0x0770f7c0808c630d18fe31c5deed4a67a5e3997726b87cb4892e2023d9921144abd3f2565d9e2a14476da2413c843953d15b3f37cdcf95bcfcdcbe619087b2979d2955aa6ca1523b86b160fb5a3ebbccb77b76a42d1f43d8ec49c4176ff60c7fa051a99cb05fcb59f50b16eb7a75d72ce8ade6e7d5e9ae4f74d6eaf450a858af57a773f3e5acd44eca5e9f9b150a792bba3d85fa54286b3a421eb6a3c3486e7e1091882298e225b3628b06bf30fddd6638834640f1d25c1394ced036bddb8f968eda93354582f01224e10f21058a2f657809c99a72a6e44d6a27b9f9b51dc27dc11c69f8c808714cef818d340ee0046403dfee33681bc74bc61a023201190000

/-- SBOX[0..255], packed (spec/95_test_vectors.md section 2.3). -/
def sboxPacked : Nat :=
  0x16bb54b00f2d99416842e6bf0d89a18cdf2855cee9871e9b948ed9691198f8e19e1dc186b95735610ef6034866b53e708a8bbd4b1f74dde8c6b4a61c2e2578ba08ae7a65eaf4566ca94ed58d6d37c8e779e4959162acd3c25c2406490a3a32e0db0b5ede14b8ee4688902a22dc4f816073195d643d7ea7c41744975fec130ccdd2f3ff1021dab6bcf5389d928f40a351a89f3c507f02f94585334d43fbaaefd0cf584c4a39becb6a5bb1fc20ed00d153842fe329b3d63b52a05a6e1b1a2c830975b227ebe28012079a059618c323c7041531d871f1e5a534ccf73f362693fdb7c072a49cafa2d4adf04759fa7dc982ca76abd7fe2b670130c56f6bf27b777c63

/-- INVSBOX[0..255], packed (spec/95_test_vectors.md section 2.4). -/
def invSboxPacked : Nat :=
  0x7d0c2155631469e126d677ba7e042b17619953833cbbebc8b0f52aae4d3be0a0ef9cc9939f7ae52d0d4ab519a97f51605fec8027591012b131c7078833a8dd1ff45acd78fec0db9a2079d2c64b3e56fc1bbe18aa0e62b76f89c5291d711af1476edf751ce837f9e28535ade72274ac9673e6b4f0cecff297eadc674f4111913a6b8a130103bdafc1020f3fca8f1e2cd00645b3b80558e4f70ad3bc8c00abd890849d8da75746155edab9edfd5048706c92b6655dcc5ca4d41698688664f6f87225d18b6d49a25b76b224d92866a12e084ec3fa420b954cee3d23c2a632947b54cbe9dec444438e3487ff2f9b8239e37cfbd7f3819ea340bf38a53630d56a0952

set_option maxRecDepth 4000 in
theorem powTable_eq : powTable = (List.range 256).map (byteAt powPacked) := by decide +kernel

theorem pow_eq (i : Nat) (h : i < 256) : pow i = byteAt powPacked i := by
  simp [pow, powTable_eq, h]

theorem log_eq (x : Byte) : log x = byteAt logPacked x.toNat := by
  simp only [log, powTable_eq]
  revert x
  decide +kernel

theorem ginv_eq (x : Byte) :
    ginv x = if x = 0 then 0 else byteAt powPacked (255 - (byteAt logPacked x.toNat).toNat) := by
  rw [ginv, log_eq, pow_eq _ (by omega)]

theorem sbox_eq (x : Byte) : sbox x = byteAt sboxPacked x.toNat := by
  simp only [sbox, ginv_eq]
  revert x
  decide +kernel

theorem sboxTable_eq : sboxTable = (List.range 256).map (byteAt sboxPacked) := by
  simp only [sboxTable, sbox_eq]
  decide +kernel

theorem invSbox_eq (y : Byte) : invSbox y = byteAt invSboxPacked y.toNat := by
  simp only [invSbox, sboxTable_eq]
  revert y
  decide +kernel

/-- The field product through the packed tables. -/
def gmulPacked (a b : Byte) : Byte :=
  if a = 0 ∨ b = 0 then 0
  else byteAt powPacked (((byteAt logPacked a.toNat).toNat + (byteAt logPacked b.toNat).toNat) % 255)

theorem gmul_eq (a b : Byte) : gmul a b = gmulPacked a b := by
  rw [gmul, gmulPacked, log_eq, log_eq, pow_eq _ (by omega)]

theorem gmul_one (x : Byte) : gmul 1 x = x := by
  rw [gmul_eq]; revert x; decide +kernel

theorem gmul_two (x : Byte) : gmul 2 x = xtime x := by
  rw [gmul_eq]; revert x; decide +kernel

theorem gmul_three (x : Byte) : gmul 3 x = xtime x ^^^ x := by
  rw [gmul_eq]; revert x; decide +kernel

theorem gmul_nine (x : Byte) : gmul 9 x = xtime (xtime (xtime x)) ^^^ x := by
  rw [gmul_eq]; revert x; decide +kernel

theorem gmul_eleven (x : Byte) : gmul 11 x = xtime (xtime (xtime x)) ^^^ xtime x ^^^ x := by
  rw [gmul_eq]; revert x; decide +kernel

theorem gmul_thirteen (x : Byte) : gmul 13 x = xtime (xtime (xtime x)) ^^^ xtime (xtime x) ^^^ x := by
  rw [gmul_eq]; revert x; decide +kernel

theorem gmul_fourteen (x : Byte) : gmul 14 x = xtime (xtime (xtime x)) ^^^ xtime (xtime x) ^^^ xtime x := by
  rw [gmul_eq]; revert x; decide +kernel

/-- Doubling distributes over the field's addition. -/
theorem xtime_xor (x y : Byte) : xtime (x ^^^ y) = xtime x ^^^ xtime y := by
  have shift : (x ^^^ y) <<< 1 = x <<< 1 ^^^ y <<< 1 := by
    ext i hi
    by_cases h : i = 0 <;> simp [h]
  simp only [xtime, shift, BitVec.getLsbD_xor]
  cases x.getLsbD 7 <;> cases y.getLsbD 7 <;> simp
  · ac_rfl
  · ac_rfl
  · rw [BitVec.xor_assoc, BitVec.xor_comm (27#8), BitVec.xor_assoc]
    simp

end Sys2Proof.Machine
end

