-- ==== Sys2Proof/Laws/Instances.lean ====
section
/-! SUPPORT. Everything a step of a platform can do, and what an access adds to an instance. -/

namespace Sys2Proof.Machine

@[simp] theorem pushEvent_page (e : Event) (i : Instance) : (pushEvent e i).page = i.page := rfl
@[simp] theorem pushEvent_build (e : Event) (i : Instance) : (pushEvent e i).build = i.build := rfl
@[simp] theorem pushEvent_events (e : Event) (i : Instance) : (pushEvent e i).state.events = e :: i.state.events := rfl

/-- Everything a step of one instance can do. -/
theorem stepInstance_cases {i j : Instance} (h : stepInstance i = .next j) :
    ∃ t, stepIn i.build i.state = .next t ∧ j = { i with state := t } := by
  unfold stepInstance at h
  cases hs : stepIn i.build i.state <;> simp_all

/-- Everything a step of a platform can do. -/
theorem instanceStep_cases {k : Nat} {platform after : List Instance} (h : instanceStep k platform = .next after) :
    (platform[k]? = none ∧ after = platform)
    ∨ ∃ i t, platform[k]? = some i ∧ stepIn i.build i.state = .next t ∧ after = platform.set k { i with state := t } := by
  unfold instanceStep at h
  split at h
  · rename_i hk
    cases h
    exact .inl ⟨hk, rfl⟩
  · rename_i i hk
    split at h
    · rename_i j hj
      cases h
      obtain ⟨t, ht, rfl⟩ := stepInstance_cases hj
      exact .inr ⟨i, t, hk, ht, rfl⟩
    · cases h
    · cases h

end Sys2Proof.Machine
end

