-- ==== Sys2Proof/Laws/KeySchedule.lean ====
section
/-! SUPPORT. The loop of the key expansion: how many words it gives, that it keeps the words it was given, and the
recurrence of the words it adds. -/

namespace Sys2Proof.Machine

theorem expandMore_append (o : ByteOrder) (nk : Nat) :
    ∀ (count : Nat) (w : List Word), ∃ u, u.length = count ∧ expandMore o nk w count = w ++ u := by
  intro count
  induction count with
  | zero => exact fun w => ⟨[], rfl, by simp [expandMore]⟩
  | succ count ih =>
    intro w
    obtain ⟨u, hl, hu⟩ := ih (w ++ [expandWord o nk w])
    exact ⟨expandWord o nk w :: u, by simp [hl], by simp [expandMore, hu]⟩

theorem expandMore_length (o : ByteOrder) (nk count : Nat) (w : List Word) :
    (expandMore o nk w count).length = w.length + count := by
  obtain ⟨u, hl, hu⟩ := expandMore_append o nk count w
  simp [hu, hl]

/-- The words given stay as they are. -/
theorem expandMore_getD_old (o : ByteOrder) (nk count : Nat) (w : List Word) (i : Nat) (h : i < w.length) :
    (expandMore o nk w count).getD i 0 = w.getD i 0 := by
  obtain ⟨u, hl, hu⟩ := expandMore_append o nk count w
  simp [hu, List.getD, List.getElem?_append, h]

/-- A word added is the word Nk back XORed with the term of R203. -/
theorem expandMore_getD_new (o : ByteOrder) (nk : Nat) (hk : 0 < nk) :
    ∀ (count : Nat) (w : List Word) (i : Nat), nk ≤ w.length → w.length ≤ i → i < w.length + count →
      (expandMore o nk w count).getD i 0 = (expandMore o nk w count).getD (i - nk) 0
        ^^^ expandTerm o nk i ((expandMore o nk w count).getD (i - 1) 0) := by
  intro count
  induction count with
  | zero => intros; omega
  | succ count ih =>
    intro w i hw h1 h2
    simp only [expandMore]
    by_cases h : i = w.length
    · subst h
      rw [expandMore_getD_old _ _ _ _ _ (by simp), expandMore_getD_old _ _ _ _ _ (by simp),
        expandMore_getD_old _ _ _ _ _ (by simp)]
      simp only [List.getD, List.getElem?_append]
      rw [if_neg (by omega), if_pos (by omega), if_pos (by omega)]
      simp [expandWord, List.getD]
    · exact ih _ i (by simp; omega) (by simp; omega) (by simp; omega)

end Sys2Proof.Machine
end

