-- ==== Sys2Proof/Laws/Lanes.lean ====
section
/-! SUPPORT. Lanes: reading a lane of a built word, building a word from its lanes, and lanes of sums. -/

namespace Sys2Proof.Machine

/-- Four values, one per lane. -/
def fourOf {α : Type} (a0 a1 a2 a3 : α) : Fin 4 → α
  | 0 => a0
  | 1 => a1
  | 2 => a2
  | 3 => a3

theorem lane_mkword (o : ByteOrder) (a0 a1 a2 a3 : Byte) (r : Fin 4) :
    lane o (mkword o a0 a1 a2 a3) r = fourOf a0 a1 a2 a3 r := by
  match r with
  | 0 | 1 | 2 | 3 =>
    cases o <;> simp only [lane, mkword, bytePos, fourOf] <;> ext i hi <;>
      simp only [BitVec.getElem_extractLsb', BitVec.getLsbD_append] <;> simp <;> grind

@[simp] theorem lane_mkword_zero (o : ByteOrder) (a0 a1 a2 a3 : Byte) : lane o (mkword o a0 a1 a2 a3) 0 = a0 :=
  lane_mkword o a0 a1 a2 a3 0

@[simp] theorem lane_mkword_one (o : ByteOrder) (a0 a1 a2 a3 : Byte) : lane o (mkword o a0 a1 a2 a3) 1 = a1 :=
  lane_mkword o a0 a1 a2 a3 1

@[simp] theorem lane_mkword_two (o : ByteOrder) (a0 a1 a2 a3 : Byte) : lane o (mkword o a0 a1 a2 a3) 2 = a2 :=
  lane_mkword o a0 a1 a2 a3 2

@[simp] theorem lane_mkword_three (o : ByteOrder) (a0 a1 a2 a3 : Byte) : lane o (mkword o a0 a1 a2 a3) 3 = a3 :=
  lane_mkword o a0 a1 a2 a3 3

@[simp] theorem lane_xor (o : ByteOrder) (V W : Word) (r : Fin 4) : lane o (V ^^^ W) r = lane o V r ^^^ lane o W r := by
  ext i hi
  simp [lane]

@[simp] theorem lane_zero (o : ByteOrder) (r : Fin 4) : lane o 0 r = 0 := by
  ext i hi
  simp [lane]

/-- The lane that holds bits 8q+7 : 8q. -/
def laneAt (o : ByteOrder) (q : Fin 4) : Fin 4 :=
  match o with
  | .le => q
  | .be => 3 - q

theorem bytePos_laneAt (o : ByteOrder) (q : Fin 4) : bytePos o (laneAt o q) = 8 * q.val := by
  revert q
  cases o <;> decide

/-- Every bit of a word is a bit of one of its lanes. -/
theorem getLsbD_eq_lane (o : ByteOrder) (W : Word) (i : Nat) (h : i < 32) :
    W.getLsbD i = (lane o W (laneAt o ⟨i / 8, by omega⟩)).getLsbD (i % 8) := by
  have hm : i % 8 < 8 := Nat.mod_lt _ (by decide)
  have hi : 8 * (i / 8) + i % 8 = i := Nat.div_add_mod i 8
  simp [lane, bytePos_laneAt, hm, hi]

/-- A word is determined by its lanes. -/
theorem word_ext (o : ByteOrder) {V W : Word} (h : ∀ r, lane o V r = lane o W r) : V = W := by
  apply BitVec.eq_of_getLsbD_eq
  intro i hi
  rw [getLsbD_eq_lane o V i hi, getLsbD_eq_lane o W i hi, h]

@[simp] theorem mkword_lanes (o : ByteOrder) (W : Word) :
    mkword o (lane o W 0) (lane o W 1) (lane o W 2) (lane o W 3) = W := by
  apply word_ext o
  intro r
  match r with
  | 0 | 1 | 2 | 3 => simp

/-- Lane r of the rotated word. -/
@[simp] theorem lane_rotLanes (o : ByteOrder) (k r : Fin 4) (W : Word) :
    lane o (rotLanes o k W) r = lane o W (r - k) := by
  rw [rotLanes, lane_mkword]
  match r with
  | 0 | 1 | 2 | 3 => rfl

@[simp] theorem rotLanes_zero (o : ByteOrder) (W : Word) : rotLanes o 0 W = W := by
  apply word_ext o
  intro r
  simp

/-- Lane r of the word with one byte set. -/
@[simp] theorem lane_laneWord (o : ByteOrder) (k r : Fin 4) (a : Byte) :
    lane o (laneWord o k a) r = if k = r then a else 0 := by
  rw [laneWord, lane_mkword]
  match r with
  | 0 | 1 | 2 | 3 => rfl

/-- Lane r under one order is lane 3 - r under the other. -/
theorem lane_be_eq (W : Word) (r : Fin 4) : lane .be W r = lane .le W (3 - r) := by
  match r with
  | 0 | 1 | 2 | 3 => rfl

/-- Swapping a word's bytes end for end reverses its lanes. -/
theorem lane_bswap32 (o : ByteOrder) (v : Word) (r : Fin 4) : lane o (bswap32 v) r = lane o v (3 - r) := by
  have h : bswap32 v = mkword .le (v.extractLsb' 24 8) (v.extractLsb' 16 8) (v.extractLsb' 8 8) (v.extractLsb' 0 8) := rfl
  have hle : ∀ q : Fin 4, lane .le (bswap32 v) q = lane .le v (3 - q) := by
    intro q
    rw [h, lane_mkword]
    match q with
    | 0 | 1 | 2 | 3 => rfl
  cases o with
  | le => exact hle r
  | be => rw [lane_be_eq, lane_be_eq, hle]

theorem pack_eq_mkword : pack = mkword := by
  funext o
  cases o <;> rfl

theorem unpack_eq_lane : unpack = lane := rfl

@[simp] theorem marshalIn_eq_marshalOut (b : Build) (v : Word) : marshalIn b v = marshalOut b v := rfl

end Sys2Proof.Machine
end

