-- ==== Sys2Proof/Laws/State.lean ====
section
/-! SUPPORT. What each named update leaves in each field of the state. -/

namespace Sys2Proof.Machine

@[simp] theorem reject_ready (cause : RejectCause) (s : State) : (reject cause s).ready = s.ready := rfl
@[simp] theorem reject_busy (cause : RejectCause) (s : State) : (reject cause s).busy = s.busy := rfl
@[simp] theorem reject_done (cause : RejectCause) (s : State) : (reject cause s).done = s.done := rfl
@[simp] theorem reject_err (cause : RejectCause) (s : State) : (reject cause s).err = rejectCode cause := rfl
@[simp] theorem reject_encValid (cause : RejectCause) (s : State) : (reject cause s).encValid = s.encValid := rfl
@[simp] theorem reject_decValid (cause : RejectCause) (s : State) : (reject cause s).decValid = s.decValid := rfl
@[simp] theorem reject_nr (cause : RejectCause) (s : State) : (reject cause s).nr = s.nr := rfl
@[simp] theorem reject_cur (cause : RejectCause) (s : State) : (reject cause s).cur = s.cur := rfl
@[simp] theorem reject_key (cause : RejectCause) (s : State) : (reject cause s).key = s.key := rfl
@[simp] theorem reject_din (cause : RejectCause) (s : State) : (reject cause s).din = s.din := rfl
@[simp] theorem reject_doutW (cause : RejectCause) (s : State) : (reject cause s).doutW = s.doutW := rfl
@[simp] theorem reject_ek (cause : RejectCause) (s : State) : (reject cause s).ek = s.ek := rfl
@[simp] theorem reject_dk (cause : RejectCause) (s : State) : (reject cause s).dk = s.dk := rfl
@[simp] theorem reject_events (cause : RejectCause) (s : State) : (reject cause s).events = s.events := rfl
@[simp] theorem reject_reply (cause : RejectCause) (s : State) : (reject cause s).reply = s.reply := rfl

@[simp] theorem accept_ready (v : Word) (s : State) : (accept v s).ready = s.ready := rfl
@[simp] theorem accept_busy (v : Word) (s : State) : (accept v s).busy = true := rfl
@[simp] theorem accept_done (v : Word) (s : State) : (accept v s).done = false := rfl
@[simp] theorem accept_err (v : Word) (s : State) : (accept v s).err = errNone := rfl
@[simp] theorem accept_encValid (v : Word) (s : State) : (accept v s).encValid = s.encValid := rfl
@[simp] theorem accept_decValid (v : Word) (s : State) : (accept v s).decValid = s.decValid := rfl
@[simp] theorem accept_nr (v : Word) (s : State) : (accept v s).nr = s.nr := rfl
@[simp] theorem accept_cur (v : Word) (s : State) : (accept v s).cur = v := rfl
@[simp] theorem accept_key (v : Word) (s : State) : (accept v s).key = s.key := rfl
@[simp] theorem accept_din (v : Word) (s : State) : (accept v s).din = s.din := rfl
@[simp] theorem accept_doutW (v : Word) (s : State) : (accept v s).doutW = s.doutW := rfl
@[simp] theorem accept_ek (v : Word) (s : State) : (accept v s).ek = s.ek := rfl
@[simp] theorem accept_dk (v : Word) (s : State) : (accept v s).dk = s.dk := rfl
@[simp] theorem accept_events (v : Word) (s : State) : (accept v s).events = s.events := rfl
@[simp] theorem accept_reply (v : Word) (s : State) : (accept v s).reply = s.reply := rfl

@[simp] theorem acceptSetup_ready (v : Word) (s : State) : (acceptSetup v s).ready = s.ready := rfl
@[simp] theorem acceptSetup_busy (v : Word) (s : State) : (acceptSetup v s).busy = true := rfl
@[simp] theorem acceptSetup_done (v : Word) (s : State) : (acceptSetup v s).done = false := rfl
@[simp] theorem acceptSetup_err (v : Word) (s : State) : (acceptSetup v s).err = errNone := rfl
@[simp] theorem acceptSetup_encValid (v : Word) (s : State) : (acceptSetup v s).encValid = false := rfl
@[simp] theorem acceptSetup_decValid (v : Word) (s : State) : (acceptSetup v s).decValid = false := rfl
@[simp] theorem acceptSetup_nr (v : Word) (s : State) : (acceptSetup v s).nr = s.nr := rfl
@[simp] theorem acceptSetup_cur (v : Word) (s : State) : (acceptSetup v s).cur = v := rfl
@[simp] theorem acceptSetup_key (v : Word) (s : State) : (acceptSetup v s).key = s.key := rfl
@[simp] theorem acceptSetup_din (v : Word) (s : State) : (acceptSetup v s).din = s.din := rfl
@[simp] theorem acceptSetup_doutW (v : Word) (s : State) : (acceptSetup v s).doutW = s.doutW := rfl
@[simp] theorem acceptSetup_ek (v : Word) (s : State) : (acceptSetup v s).ek = s.ek := rfl
@[simp] theorem acceptSetup_dk (v : Word) (s : State) : (acceptSetup v s).dk = s.dk := rfl
@[simp] theorem acceptSetup_events (v : Word) (s : State) : (acceptSetup v s).events = s.events := rfl
@[simp] theorem acceptSetup_reply (v : Word) (s : State) : (acceptSetup v s).reply = s.reply := rfl

@[simp] theorem finish_ready (s : State) : (finish s).ready = s.ready := rfl
@[simp] theorem finish_busy (s : State) : (finish s).busy = false := rfl
@[simp] theorem finish_done (s : State) : (finish s).done = true := rfl
@[simp] theorem finish_err (s : State) : (finish s).err = s.err := rfl
@[simp] theorem finish_encValid (s : State) : (finish s).encValid = s.encValid := rfl
@[simp] theorem finish_decValid (s : State) : (finish s).decValid = s.decValid := rfl
@[simp] theorem finish_nr (s : State) : (finish s).nr = s.nr := rfl
@[simp] theorem finish_cur (s : State) : (finish s).cur = s.cur := rfl
@[simp] theorem finish_key (s : State) : (finish s).key = s.key := rfl
@[simp] theorem finish_din (s : State) : (finish s).din = s.din := rfl
@[simp] theorem finish_doutW (s : State) : (finish s).doutW = s.doutW := rfl
@[simp] theorem finish_ek (s : State) : (finish s).ek = s.ek := rfl
@[simp] theorem finish_dk (s : State) : (finish s).dk = s.dk := rfl
@[simp] theorem finish_events (s : State) : (finish s).events = s.events := rfl
@[simp] theorem finish_reply (s : State) : (finish s).reply = s.reply := rfl

@[simp] theorem writeOutput_ready (Z : Words 4) (s : State) : (writeOutput Z s).ready = s.ready := rfl
@[simp] theorem writeOutput_busy (Z : Words 4) (s : State) : (writeOutput Z s).busy = s.busy := rfl
@[simp] theorem writeOutput_done (Z : Words 4) (s : State) : (writeOutput Z s).done = s.done := rfl
@[simp] theorem writeOutput_err (Z : Words 4) (s : State) : (writeOutput Z s).err = s.err := rfl
@[simp] theorem writeOutput_encValid (Z : Words 4) (s : State) : (writeOutput Z s).encValid = s.encValid := rfl
@[simp] theorem writeOutput_decValid (Z : Words 4) (s : State) : (writeOutput Z s).decValid = s.decValid := rfl
@[simp] theorem writeOutput_nr (Z : Words 4) (s : State) : (writeOutput Z s).nr = s.nr := rfl
@[simp] theorem writeOutput_cur (Z : Words 4) (s : State) : (writeOutput Z s).cur = s.cur := rfl
@[simp] theorem writeOutput_key (Z : Words 4) (s : State) : (writeOutput Z s).key = s.key := rfl
@[simp] theorem writeOutput_din (Z : Words 4) (s : State) : (writeOutput Z s).din = s.din := rfl
@[simp] theorem writeOutput_doutW (Z : Words 4) (s : State) : (writeOutput Z s).doutW = Z := rfl
@[simp] theorem writeOutput_ek (Z : Words 4) (s : State) : (writeOutput Z s).ek = s.ek := rfl
@[simp] theorem writeOutput_dk (Z : Words 4) (s : State) : (writeOutput Z s).dk = s.dk := rfl
@[simp] theorem writeOutput_events (Z : Words 4) (s : State) : (writeOutput Z s).events = s.events := rfl
@[simp] theorem writeOutput_reply (Z : Words 4) (s : State) : (writeOutput Z s).reply = s.reply := rfl

@[simp] theorem storeSchedules_ready (ek dk : Words 60) (nr : BitVec 4) (mode : BitVec 2) (s : State) : (storeSchedules ek dk nr mode s).ready = s.ready := rfl
@[simp] theorem storeSchedules_busy (ek dk : Words 60) (nr : BitVec 4) (mode : BitVec 2) (s : State) : (storeSchedules ek dk nr mode s).busy = s.busy := rfl
@[simp] theorem storeSchedules_done (ek dk : Words 60) (nr : BitVec 4) (mode : BitVec 2) (s : State) : (storeSchedules ek dk nr mode s).done = s.done := rfl
@[simp] theorem storeSchedules_err (ek dk : Words 60) (nr : BitVec 4) (mode : BitVec 2) (s : State) : (storeSchedules ek dk nr mode s).err = s.err := rfl
@[simp] theorem storeSchedules_encValid (ek dk : Words 60) (nr : BitVec 4) (mode : BitVec 2) (s : State) : (storeSchedules ek dk nr mode s).encValid = modeEncrypts mode := rfl
@[simp] theorem storeSchedules_decValid (ek dk : Words 60) (nr : BitVec 4) (mode : BitVec 2) (s : State) : (storeSchedules ek dk nr mode s).decValid = modeDecrypts mode := rfl
@[simp] theorem storeSchedules_nr (ek dk : Words 60) (nr : BitVec 4) (mode : BitVec 2) (s : State) : (storeSchedules ek dk nr mode s).nr = nr := rfl
@[simp] theorem storeSchedules_cur (ek dk : Words 60) (nr : BitVec 4) (mode : BitVec 2) (s : State) : (storeSchedules ek dk nr mode s).cur = s.cur := rfl
@[simp] theorem storeSchedules_key (ek dk : Words 60) (nr : BitVec 4) (mode : BitVec 2) (s : State) : (storeSchedules ek dk nr mode s).key = s.key := rfl
@[simp] theorem storeSchedules_din (ek dk : Words 60) (nr : BitVec 4) (mode : BitVec 2) (s : State) : (storeSchedules ek dk nr mode s).din = s.din := rfl
@[simp] theorem storeSchedules_doutW (ek dk : Words 60) (nr : BitVec 4) (mode : BitVec 2) (s : State) : (storeSchedules ek dk nr mode s).doutW = s.doutW := rfl
@[simp] theorem storeSchedules_ek (ek dk : Words 60) (nr : BitVec 4) (mode : BitVec 2) (s : State) : (storeSchedules ek dk nr mode s).ek = ek := rfl
@[simp] theorem storeSchedules_dk (ek dk : Words 60) (nr : BitVec 4) (mode : BitVec 2) (s : State) : (storeSchedules ek dk nr mode s).dk = dk := rfl
@[simp] theorem storeSchedules_events (ek dk : Words 60) (nr : BitVec 4) (mode : BitVec 2) (s : State) : (storeSchedules ek dk nr mode s).events = s.events := rfl
@[simp] theorem storeSchedules_reply (ek dk : Words 60) (nr : BitVec 4) (mode : BitVec 2) (s : State) : (storeSchedules ek dk nr mode s).reply = s.reply := rfl

@[simp] theorem answer_ready (r : Reply) (s : State) : (answer r s).ready = s.ready := rfl
@[simp] theorem answer_busy (r : Reply) (s : State) : (answer r s).busy = s.busy := rfl
@[simp] theorem answer_done (r : Reply) (s : State) : (answer r s).done = s.done := rfl
@[simp] theorem answer_err (r : Reply) (s : State) : (answer r s).err = s.err := rfl
@[simp] theorem answer_encValid (r : Reply) (s : State) : (answer r s).encValid = s.encValid := rfl
@[simp] theorem answer_decValid (r : Reply) (s : State) : (answer r s).decValid = s.decValid := rfl
@[simp] theorem answer_nr (r : Reply) (s : State) : (answer r s).nr = s.nr := rfl
@[simp] theorem answer_cur (r : Reply) (s : State) : (answer r s).cur = s.cur := rfl
@[simp] theorem answer_key (r : Reply) (s : State) : (answer r s).key = s.key := rfl
@[simp] theorem answer_din (r : Reply) (s : State) : (answer r s).din = s.din := rfl
@[simp] theorem answer_doutW (r : Reply) (s : State) : (answer r s).doutW = s.doutW := rfl
@[simp] theorem answer_ek (r : Reply) (s : State) : (answer r s).ek = s.ek := rfl
@[simp] theorem answer_dk (r : Reply) (s : State) : (answer r s).dk = s.dk := rfl
@[simp] theorem answer_events (r : Reply) (s : State) : (answer r s).events = s.events := rfl
@[simp] theorem answer_reply (r : Reply) (s : State) : (answer r s).reply = some r := rfl

@[simp] theorem tableGen_ready (s : State) : (tableGen s).ready = true := by cases h : s.ready <;> simp [tableGen, h]
@[simp] theorem tableGen_busy (s : State) : (tableGen s).busy = s.busy := by cases h : s.ready <;> simp [tableGen, h]
@[simp] theorem tableGen_done (s : State) : (tableGen s).done = s.done := by cases h : s.ready <;> simp [tableGen, h]
@[simp] theorem tableGen_err (s : State) : (tableGen s).err = s.err := by cases h : s.ready <;> simp [tableGen, h]
@[simp] theorem tableGen_encValid (s : State) : (tableGen s).encValid = s.encValid := by cases h : s.ready <;> simp [tableGen, h]
@[simp] theorem tableGen_decValid (s : State) : (tableGen s).decValid = s.decValid := by cases h : s.ready <;> simp [tableGen, h]
@[simp] theorem tableGen_nr (s : State) : (tableGen s).nr = s.nr := by cases h : s.ready <;> simp [tableGen, h]
@[simp] theorem tableGen_cur (s : State) : (tableGen s).cur = s.cur := by cases h : s.ready <;> simp [tableGen, h]
@[simp] theorem tableGen_key (s : State) : (tableGen s).key = s.key := by cases h : s.ready <;> simp [tableGen, h]
@[simp] theorem tableGen_din (s : State) : (tableGen s).din = s.din := by cases h : s.ready <;> simp [tableGen, h]
@[simp] theorem tableGen_doutW (s : State) : (tableGen s).doutW = s.doutW := by cases h : s.ready <;> simp [tableGen, h]
@[simp] theorem tableGen_ek (s : State) : (tableGen s).ek = s.ek := by cases h : s.ready <;> simp [tableGen, h]
@[simp] theorem tableGen_dk (s : State) : (tableGen s).dk = s.dk := by cases h : s.ready <;> simp [tableGen, h]
@[simp] theorem tableGen_events (s : State) : (tableGen s).events = s.events := by cases h : s.ready <;> simp [tableGen, h]
@[simp] theorem tableGen_reply (s : State) : (tableGen s).reply = s.reply := by cases h : s.ready <;> simp [tableGen, h]

@[simp] theorem writeKey_ready (j : Fin 8) (v : Word) (s : State) : (writeKey j v s).ready = s.ready := by cases h : s.busy <;> simp [writeKey, h]
@[simp] theorem writeKey_busy (j : Fin 8) (v : Word) (s : State) : (writeKey j v s).busy = s.busy := by cases h : s.busy <;> simp [writeKey, h]
@[simp] theorem writeKey_done (j : Fin 8) (v : Word) (s : State) : (writeKey j v s).done = s.done := by cases h : s.busy <;> simp [writeKey, h]
@[simp] theorem writeKey_err (j : Fin 8) (v : Word) (s : State) : (writeKey j v s).err = s.err := by cases h : s.busy <;> simp [writeKey, h]
@[simp] theorem writeKey_encValid (j : Fin 8) (v : Word) (s : State) : (writeKey j v s).encValid = s.encValid := by cases h : s.busy <;> simp [writeKey, h]
@[simp] theorem writeKey_decValid (j : Fin 8) (v : Word) (s : State) : (writeKey j v s).decValid = s.decValid := by cases h : s.busy <;> simp [writeKey, h]
@[simp] theorem writeKey_nr (j : Fin 8) (v : Word) (s : State) : (writeKey j v s).nr = s.nr := by cases h : s.busy <;> simp [writeKey, h]
@[simp] theorem writeKey_cur (j : Fin 8) (v : Word) (s : State) : (writeKey j v s).cur = s.cur := by cases h : s.busy <;> simp [writeKey, h]
@[simp] theorem writeKey_key (j : Fin 8) (v : Word) (s : State) : (writeKey j v s).key = if s.busy then s.key else s.key.set j v := by cases h : s.busy <;> simp [writeKey, h]
@[simp] theorem writeKey_din (j : Fin 8) (v : Word) (s : State) : (writeKey j v s).din = s.din := by cases h : s.busy <;> simp [writeKey, h]
@[simp] theorem writeKey_doutW (j : Fin 8) (v : Word) (s : State) : (writeKey j v s).doutW = s.doutW := by cases h : s.busy <;> simp [writeKey, h]
@[simp] theorem writeKey_ek (j : Fin 8) (v : Word) (s : State) : (writeKey j v s).ek = s.ek := by cases h : s.busy <;> simp [writeKey, h]
@[simp] theorem writeKey_dk (j : Fin 8) (v : Word) (s : State) : (writeKey j v s).dk = s.dk := by cases h : s.busy <;> simp [writeKey, h]
@[simp] theorem writeKey_events (j : Fin 8) (v : Word) (s : State) : (writeKey j v s).events = s.events := by cases h : s.busy <;> simp [writeKey, h]
@[simp] theorem writeKey_reply (j : Fin 8) (v : Word) (s : State) : (writeKey j v s).reply = s.reply := by cases h : s.busy <;> simp [writeKey, h]

@[simp] theorem writeDin_ready (c : Fin 4) (v : Word) (s : State) : (writeDin c v s).ready = s.ready := by cases h : s.busy <;> simp [writeDin, h]
@[simp] theorem writeDin_busy (c : Fin 4) (v : Word) (s : State) : (writeDin c v s).busy = s.busy := by cases h : s.busy <;> simp [writeDin, h]
@[simp] theorem writeDin_done (c : Fin 4) (v : Word) (s : State) : (writeDin c v s).done = s.done := by cases h : s.busy <;> simp [writeDin, h]
@[simp] theorem writeDin_err (c : Fin 4) (v : Word) (s : State) : (writeDin c v s).err = s.err := by cases h : s.busy <;> simp [writeDin, h]
@[simp] theorem writeDin_encValid (c : Fin 4) (v : Word) (s : State) : (writeDin c v s).encValid = s.encValid := by cases h : s.busy <;> simp [writeDin, h]
@[simp] theorem writeDin_decValid (c : Fin 4) (v : Word) (s : State) : (writeDin c v s).decValid = s.decValid := by cases h : s.busy <;> simp [writeDin, h]
@[simp] theorem writeDin_nr (c : Fin 4) (v : Word) (s : State) : (writeDin c v s).nr = s.nr := by cases h : s.busy <;> simp [writeDin, h]
@[simp] theorem writeDin_cur (c : Fin 4) (v : Word) (s : State) : (writeDin c v s).cur = s.cur := by cases h : s.busy <;> simp [writeDin, h]
@[simp] theorem writeDin_key (c : Fin 4) (v : Word) (s : State) : (writeDin c v s).key = s.key := by cases h : s.busy <;> simp [writeDin, h]
@[simp] theorem writeDin_din (c : Fin 4) (v : Word) (s : State) : (writeDin c v s).din = if s.busy then s.din else s.din.set c v := by cases h : s.busy <;> simp [writeDin, h]
@[simp] theorem writeDin_doutW (c : Fin 4) (v : Word) (s : State) : (writeDin c v s).doutW = s.doutW := by cases h : s.busy <;> simp [writeDin, h]
@[simp] theorem writeDin_ek (c : Fin 4) (v : Word) (s : State) : (writeDin c v s).ek = s.ek := by cases h : s.busy <;> simp [writeDin, h]
@[simp] theorem writeDin_dk (c : Fin 4) (v : Word) (s : State) : (writeDin c v s).dk = s.dk := by cases h : s.busy <;> simp [writeDin, h]
@[simp] theorem writeDin_events (c : Fin 4) (v : Word) (s : State) : (writeDin c v s).events = s.events := by cases h : s.busy <;> simp [writeDin, h]
@[simp] theorem writeDin_reply (c : Fin 4) (v : Word) (s : State) : (writeDin c v s).reply = s.reply := by cases h : s.busy <;> simp [writeDin, h]

@[simp] theorem resetEvent_ready (s : State) : (resetEvent s).ready = State.reset.ready := rfl
@[simp] theorem resetEvent_busy (s : State) : (resetEvent s).busy = State.reset.busy := rfl
@[simp] theorem resetEvent_done (s : State) : (resetEvent s).done = State.reset.done := rfl
@[simp] theorem resetEvent_err (s : State) : (resetEvent s).err = State.reset.err := rfl
@[simp] theorem resetEvent_encValid (s : State) : (resetEvent s).encValid = State.reset.encValid := rfl
@[simp] theorem resetEvent_decValid (s : State) : (resetEvent s).decValid = State.reset.decValid := rfl
@[simp] theorem resetEvent_nr (s : State) : (resetEvent s).nr = State.reset.nr := rfl
@[simp] theorem resetEvent_cur (s : State) : (resetEvent s).cur = State.reset.cur := rfl
@[simp] theorem resetEvent_key (s : State) : (resetEvent s).key = State.reset.key := rfl
@[simp] theorem resetEvent_din (s : State) : (resetEvent s).din = State.reset.din := rfl
@[simp] theorem resetEvent_doutW (s : State) : (resetEvent s).doutW = State.reset.doutW := rfl
@[simp] theorem resetEvent_ek (s : State) : (resetEvent s).ek = State.reset.ek := rfl
@[simp] theorem resetEvent_dk (s : State) : (resetEvent s).dk = State.reset.dk := rfl
@[simp] theorem resetEvent_events (s : State) : (resetEvent s).events = s.events := rfl
@[simp] theorem resetEvent_reply (s : State) : (resetEvent s).reply = State.reset.reply := rfl

end Sys2Proof.Machine
end

