-- ==== Sys2Proof/Laws/Ops.lean ====
section
/-! SUPPORT. For each shared operation, one lemma that says everything it can do when it answers a next state; the two words
the encoder and the decoder agree on; and the machine's step as the step of a block with given orders. -/

namespace Sys2Proof.Machine

theorem exec_eq_execIn : exec = execIn Config.build := by
  funext i s
  cases i <;> rfl

theorem step_eq_stepIn : step = stepIn Config.build := by
  funext s
  simp only [step, stepIn, exec_eq_execIn]

/-- Everything SETUP_KEY can do. -/
theorem setupKeyIn_cases {b : Build} {keybits : BitVec 9} {mode : BitVec 2} {s t : State}
    (h : setupKeyIn b keybits mode s = .next t) :
    (s.busy = true ∧ setupKeyLegal keybits mode = true ∧ t = setupKeyComplete b keybits mode s)
    ∨ (s.busy = false ∧ s.ready = false ∧ t = reject .notReady s)
    ∨ (s.busy = false ∧ s.ready = true ∧ setupKeyLegal keybits mode = false ∧ t = reject .invalidParam s)
    ∨ (s.busy = false ∧ s.ready = true ∧ setupKeyLegal keybits mode = true
        ∧ t = acceptSetup (encode (.setupKey keybits mode)) s) := by
  unfold setupKeyIn at h
  cases hb : s.busy <;> cases hr : s.ready <;> cases hl : setupKeyLegal keybits mode <;>
    simp_all

/-- Everything ENCRYPT can do. -/
theorem encryptIn_cases {b : Build} {s t : State} (h : encryptIn b s = .next t) :
    (s.busy = true ∧ t = encryptComplete b s)
    ∨ (s.busy = false ∧ s.ready = false ∧ t = reject .notReady s)
    ∨ (s.busy = false ∧ s.ready = true ∧ s.encValid = false ∧ t = reject .noSchedule s)
    ∨ (s.busy = false ∧ s.ready = true ∧ s.encValid = true ∧ t = accept (encode .encrypt) s) := by
  unfold encryptIn at h
  cases hb : s.busy <;> cases hr : s.ready <;> cases hv : s.encValid <;> simp_all

/-- Everything DECRYPT can do. -/
theorem decryptIn_cases {b : Build} {s t : State} (h : decryptIn b s = .next t) :
    (s.busy = true ∧ t = decryptComplete b s)
    ∨ (s.busy = false ∧ s.ready = false ∧ t = reject .notReady s)
    ∨ (s.busy = false ∧ s.ready = true ∧ s.decValid = false ∧ t = reject .noSchedule s)
    ∨ (s.busy = false ∧ s.ready = true ∧ s.decValid = true ∧ t = accept (encode .decrypt) s) := by
  unfold decryptIn at h
  cases hb : s.busy <;> cases hr : s.ready <;> cases hv : s.decValid <;> simp_all

/-- Everything a CMD write can do. -/
theorem commandWrite_cases {run : Instr → State → Result} {v : Word} {s t : State}
    (h : commandWrite run v s = .next t) :
    (s.ready = false ∧ t = reject .notReady s)
    ∨ (s.ready = true ∧ s.busy = true ∧ t = reject .busy s)
    ∨ (s.ready = true ∧ s.busy = false ∧ decodeWord v = none ∧ t = reject .illegalCmd s)
    ∨ (s.ready = true ∧ s.busy = false ∧ ∃ i, decodeWord v = some i ∧ run i s = .next t) := by
  unfold commandWrite at h
  cases hb : s.busy <;> cases hr : s.ready <;> cases hd : decodeWord v <;> simp_all

/-- Everything a completion of the command in CUR can do. -/
theorem completeCommand_cases {run : Instr → State → Result} {s t : State} (h : completeCommand run s = .next t) :
    ∃ i, decode s.cur = .command i ∧ run i s = .next t := by
  unfold completeCommand at h
  cases hd : decode s.cur <;> simp_all

/-- Everything a write to a register can do. -/
theorem writeRegister_cases {run : Instr → State → Result} {v : Word} {s t : State} {r : Register}
    (h : writeRegister run v s r = .next t) :
    (r = .cmd ∧ commandWrite run v s = .next t)
    ∨ (∃ j, r = .key j ∧ t = writeKey j v s)
    ∨ (∃ c, r = .din c ∧ t = writeDin c v s)
    ∨ ((r ≠ .cmd ∧ (∀ j, r ≠ .key j) ∧ ∀ c, r ≠ .din c) ∧ t = s) := by
  cases r <;> simp_all [writeRegister]

/-- Everything a host write can do. -/
theorem memWrite_cases {run : Instr → State → Result} {off : BitVec 12} {bytes : Nat} {v : Word} {s t : State}
    (h : memWrite run off bytes v s = .next t) :
    (accessOk off bytes = false ∧ t = answer busError s)
    ∨ (accessOk off bytes = true ∧ writeRegister run v (answer writeReply s) (registerAt off.toNat) = .next t) := by
  unfold memWrite at h
  cases ha : accessOk off bytes <;> simp_all

/-- Everything the completion step can do. -/
theorem completionStep_cases {run : Instr → State → Result} {s t : State} (h : completionStep run s = .next t) :
    (s.busy = false ∧ t = s) ∨ (s.busy = true ∧ ∃ i, decode s.cur = .command i ∧ run i s = .next t) := by
  unfold completionStep at h
  cases hb : s.busy
  · simp_all
  · rw [hb] at h
    exact .inr ⟨rfl, completeCommand_cases h⟩

/-- Everything the core's own step can do while the host is silent. -/
theorem coreStep_cases {run : Instr → State → Result} {s t : State} (h : coreStep run s = .next t) :
    (s.ready = false ∧ t = tableGen s) ∨ (s.ready = true ∧ completionStep run s = .next t) := by
  unfold coreStep at h
  cases hr : s.ready <;> simp_all

/-- Everything one event can do. -/
theorem eventStep_cases {b : Build} {run : Instr → State → Result} {s t : State} {e : Event}
    (h : eventStep b run s e = .next t) :
    (∃ off bytes, e = .read off bytes ∧ t = answer (memRead b off bytes s) s)
    ∨ (∃ off bytes v, e = .write off bytes v ∧ memWrite run off bytes v s = .next t)
    ∨ (e = .generate ∧ t = tableGen s)
    ∨ (e = .complete ∧ completionStep run s = .next t)
    ∨ (e = .reset ∧ t = resetEvent s) := by
  cases e <;> simp_all [eventStep]

/-- Everything a step can do: the core's step when no event is left, and otherwise the step of the first event. -/
theorem nextStep_cases {b : Build} {run : Instr → State → Result} {s t : State} (h : nextStep b run s = .next t) :
    (s.events = [] ∧ coreStep run s = .next t)
    ∨ ∃ e rest, s.events = e :: rest ∧ eventStep b run { s with events := rest } e = .next t := by
  unfold nextStep at h
  cases he : s.events <;> simp_all

theorem flagWord_eq (flag : Bool) : flagWord flag = (BitVec.ofBool flag).setWidth 32 := by
  cases flag <;> rfl

end Sys2Proof.Machine
end

