-- ==== Sys2Proof/Laws/PerInstr.lean ====
section
/-! SUPPORT. One lemma per constructor of Instr for each family of per-instruction statements. -/

namespace Sys2Proof.Laws.ReservedBitsClear

/-- A command's word has every reserved bit 0 (spec/30_encoding.md R115) and an OP that is not reserved (R112). -/
def Statement (i : Instr) : Prop :=
  reservedLow (encode i) = 0 ∧ reservedHigh (encode i) = 0
    ∧ (opField (encode i) = 1 ∨ opField (encode i) = 2 ∨ opField (encode i) = 3)

theorem setupKey (keybits : BitVec 9) (mode : BitVec 2) : Statement (.setupKey keybits mode) := by
  refine ⟨?_, ?_, .inl ?_⟩ <;> ext i hi <;>
    simp [reservedLow, reservedHigh, opField, encode] <;> grind

theorem encrypt : Statement .encrypt := by
  unfold Statement
  decide

theorem decrypt : Statement .decrypt := by
  unfold Statement
  decide

end Sys2Proof.Laws.ReservedBitsClear
end

