-- ==== Sys2Proof/Laws/Rounds.lean ====
section
/-! SUPPORT. Lanes of the word transforms, the bytes of the rounds without diffusion, and the words of a schedule. -/

namespace Sys2Proof.Machine

theorem lane_mixColumn (o : ByteOrder) (W : Word) (r : Fin 4) :
    lane o (mixColumn o W) r = mixLane (lane o W) r := by
  rw [mixColumn, lane_mkword]
  match r with
  | 0 | 1 | 2 | 3 => rfl

theorem lane_invMixColumn (o : ByteOrder) (W : Word) (r : Fin 4) :
    lane o (invMixColumn o W) r = invMixLane (lane o W) r := by
  rw [invMixColumn, lane_mkword]
  match r with
  | 0 | 1 | 2 | 3 => rfl

/-- A block is determined by its bytes. -/
theorem bytesOf_ext (o : ByteOrder) {Y Z : Words 4} (h : bytesOf o Y = bytesOf o Z) : Y = Z := by
  apply Vector.ext
  intro i hi
  apply word_ext o
  intro r
  exact congrFun (congrFun h ⟨i, hi⟩) r

theorem bytesOf_whiten (o : ByteOrder) (Y K : Words 4) :
    bytesOf o (whiten Y K) = addRoundKey (bytesOf o Y) (bytesOf o K) := by
  funext c r
  simp [bytesOf, whiten, addRoundKey]

theorem bytesOf_ffinal (o : ByteOrder) (Y K : Words 4) :
    bytesOf o (ffinal o Y K) = addRoundKey (shiftRows (subBytes (bytesOf o Y))) (bytesOf o K) := by
  funext c r
  simp only [bytesOf, ffinal, addRoundKey, shiftRows, subBytes, fs]
  match r with
  | 0 | 1 | 2 | 3 => simp [Vector.getElem_ofFn]; rw [BitVec.xor_comm]; try rfl

theorem bytesOf_rfinal (o : ByteOrder) (Y K : Words 4) :
    bytesOf o (rfinal o Y K) = addRoundKey (invSubBytes (invShiftRows (bytesOf o Y))) (bytesOf o K) := by
  funext c r
  simp only [bytesOf, rfinal, addRoundKey, invShiftRows, invSubBytes, rs]
  match r with
  | 0 | 1 | 2 | 3 => simp [Vector.getElem_ofFn]; rw [BitVec.xor_comm]; try rfl

theorem scheduleWord_eq (k : Words 60) (i : Nat) (h : i < 60) : scheduleWord k i = k[i] := by
  simp [scheduleWord, h]

end Sys2Proof.Machine
end

