-- ==== Sys2Proof/Laws/Step.lean ====
section
/-! SUPPORT. Everything a command and a step can do when they answer a next state, said once, and how runs unfold. -/

namespace Sys2Proof.Machine

/-- Everything a command can do, the three commands together: the completions (BUSY = 1), a rejection, and the accepts. -/
theorem execIn_cases {b : Build} {i : Instr} {s t : State} (h : execIn b i s = .next t) :
    (∃ keybits mode, i = .setupKey keybits mode ∧ s.busy = true ∧ setupKeyLegal keybits mode = true
        ∧ t = setupKeyComplete b keybits mode s)
    ∨ (i = .encrypt ∧ s.busy = true ∧ t = encryptComplete b s)
    ∨ (i = .decrypt ∧ s.busy = true ∧ t = decryptComplete b s)
    ∨ (s.busy = false ∧ ∃ cause, t = reject cause s)
    ∨ (s.busy = false ∧ s.ready = true ∧ ∃ keybits mode, i = .setupKey keybits mode
        ∧ setupKeyLegal keybits mode = true ∧ t = acceptSetup (encode i) s)
    ∨ (s.busy = false ∧ s.ready = true ∧ (i = .encrypt ∧ s.encValid = true ∨ i = .decrypt ∧ s.decValid = true)
        ∧ t = accept (encode i) s) := by
  cases i with
  | setupKey keybits mode =>
    rcases setupKeyIn_cases h with ⟨h1, h2, h3⟩ | ⟨h1, h2, h3⟩ | ⟨h1, h2, h3, h4⟩ | ⟨h1, h2, h3, h4⟩
    · exact .inl ⟨keybits, mode, rfl, h1, h2, h3⟩
    · exact .inr (.inr (.inr (.inl ⟨h1, _, h3⟩)))
    · exact .inr (.inr (.inr (.inl ⟨h1, _, h4⟩)))
    · exact .inr (.inr (.inr (.inr (.inl ⟨h1, h2, keybits, mode, rfl, h3, h4⟩))))
  | encrypt =>
    rcases encryptIn_cases h with ⟨h1, h2⟩ | ⟨h1, h2, h3⟩ | ⟨h1, h2, h3, h4⟩ | ⟨h1, h2, h3, h4⟩
    · exact .inr (.inl ⟨rfl, h1, h2⟩)
    · exact .inr (.inr (.inr (.inl ⟨h1, _, h3⟩)))
    · exact .inr (.inr (.inr (.inl ⟨h1, _, h4⟩)))
    · exact .inr (.inr (.inr (.inr (.inr ⟨h1, h2, .inl ⟨rfl, h3⟩, h4⟩))))
  | decrypt =>
    rcases decryptIn_cases h with ⟨h1, h2⟩ | ⟨h1, h2, h3⟩ | ⟨h1, h2, h3, h4⟩ | ⟨h1, h2, h3, h4⟩
    · exact .inr (.inr (.inl ⟨rfl, h1, h2⟩))
    · exact .inr (.inr (.inr (.inl ⟨h1, _, h3⟩)))
    · exact .inr (.inr (.inr (.inl ⟨h1, _, h4⟩)))
    · exact .inr (.inr (.inr (.inr (.inr ⟨h1, h2, .inr ⟨rfl, h3⟩, h4⟩))))

/-- The states a step may lead to, each with the step that leads there. -/
inductive StepEffect (b : Build) (s : State) : State → Prop
  /-- A read, a bus error, an ignored or dropped write, or a core step that is not enabled. -/
  | keep (e : List Event) (r : Option Reply) : ¬ ResetNext s → StepEffect b s { s with events := e, reply := r }
  | generate (e : List Event) : GenerationNext s → StepEffect b s { s with ready := true, events := e }
  | reset (e : List Event) : ResetNext s → StepEffect b s { State.reset with events := e }
  | key (e : List Event) (r : Option Reply) (j : Fin 8) (v : Word) : WriteNext s (.key j) v → s.busy = false →
      StepEffect b s { s with key := s.key.set j.val v, events := e, reply := r }
  | din (e : List Event) (r : Option Reply) (c : Fin 4) (v : Word) : WriteNext s (.din c) v → s.busy = false →
      StepEffect b s { s with din := s.din.set c.val v, events := e, reply := r }
  | reject (e : List Event) (r : Option Reply) (cause : RejectCause) (v : Word) : WriteNext s .cmd v →
      StepEffect b s { s with err := rejectCode cause, events := e, reply := r }
  | acceptSetup (e : List Event) (r : Option Reply) (v : Word) (keybits : BitVec 9) (mode : BitVec 2) :
      WriteNext s .cmd v → s.busy = false → s.ready = true → decodeWord v = some (.setupKey keybits mode) →
      setupKeyLegal keybits mode = true →
      StepEffect b s { acceptSetup (encode (.setupKey keybits mode)) s with events := e, reply := r }
  | accept (e : List Event) (r : Option Reply) (v : Word) (i : Instr) :
      WriteNext s .cmd v → s.busy = false → s.ready = true → decodeWord v = some i →
      (i = .encrypt ∧ s.encValid = true ∨ i = .decrypt ∧ s.decValid = true) →
      StepEffect b s { accept (encode i) s with events := e, reply := r }
  | completeSetup (e : List Event) (keybits : BitVec 9) (mode : BitVec 2) : CompletionNext s →
      decode s.cur = .command (.setupKey keybits mode) → setupKeyLegal keybits mode = true →
      StepEffect b s { setupKeyComplete b keybits mode s with events := e }
  | completeEncrypt (e : List Event) : CompletionNext s → decode s.cur = .command .encrypt →
      StepEffect b s { encryptComplete b s with events := e }
  | completeDecrypt (e : List Event) : CompletionNext s → decode s.cur = .command .decrypt →
      StepEffect b s { decryptComplete b s with events := e }

theorem stepEffect_commandWrite {b : Build} {s t : State} {e : List Event} {r : Option Reply} {v : Word}
    (hw : WriteNext s .cmd v)
    (h : commandWrite (execIn b) v { s with events := e, reply := r } = .next t) : StepEffect b s t := by
  rcases commandWrite_cases h with ⟨_, rfl⟩ | ⟨_, _, rfl⟩ | ⟨_, _, _, rfl⟩ | ⟨_, hb, i, hd, hx⟩
  · exact .reject e r _ v hw
  · exact .reject e r _ v hw
  · exact .reject e r _ v hw
  · rcases execIn_cases hx with ⟨_, _, rfl, h1, _⟩ | ⟨rfl, h1, _⟩ | ⟨rfl, h1, _⟩ | ⟨_, cause, rfl⟩
      | ⟨_, h2, keybits, mode, rfl, h3, rfl⟩ | ⟨_, h2, h3, rfl⟩
    · simp_all
    · simp_all
    · simp_all
    · exact .reject e r cause v hw
    · exact .acceptSetup e r v keybits mode hw hb h2 hd h3
    · exact .accept e r v i hw hb h2 hd h3

theorem stepEffect_completion {b : Build} {s t : State} {e : List Event} (hn : ¬ ResetNext s)
    (hc : s.busy = true → CompletionNext s)
    (h : completionStep (execIn b) { s with events := e } = .next t) : StepEffect b s t := by
  rcases completionStep_cases h with ⟨_, rfl⟩ | ⟨hb, i, hd, hx⟩
  · exact .keep e s.reply hn
  · rcases execIn_cases hx with ⟨keybits, mode, rfl, _, h3, rfl⟩ | ⟨rfl, _, rfl⟩ | ⟨rfl, _, rfl⟩ | ⟨h1, _⟩
      | ⟨h1, _⟩ | ⟨h1, _⟩
    · exact .completeSetup e keybits mode (hc hb) hd h3
    · exact .completeEncrypt e (hc hb) hd
    · exact .completeDecrypt e (hc hb) hd
    · simp_all
    · simp_all
    · simp_all

theorem stepEffect_generation {b : Build} {s : State} {e : List Event} (hn : ¬ ResetNext s)
    (hg : s.ready = false → GenerationNext s) :
    StepEffect b s (tableGen { s with events := e }) := by
  unfold tableGen
  split
  · exact .keep e s.reply hn
  · exact .generate e (hg (by simp_all))

/-- Everything a step can do. -/
theorem stepEffect {b : Build} {s t : State} (h : stepIn b s = .next t) : StepEffect b s t := by
  rcases nextStep_cases h with ⟨he, hc⟩ | ⟨e, rest, he, hs⟩
  · have hn : ¬ ResetNext s := by simp [ResetNext, he]
    rcases coreStep_cases hc with ⟨hr, rfl⟩ | ⟨hr, hc⟩
    · exact stepEffect_generation (e := s.events) hn fun h => ⟨h, .inr he⟩
    · exact stepEffect_completion (e := s.events) hn (fun h => ⟨h, .inr ⟨he, hr⟩⟩) hc
  · rcases eventStep_cases hs with ⟨off, n, rfl, rfl⟩ | ⟨off, n, v, rfl, hm⟩ | ⟨rfl, rfl⟩ | ⟨rfl, hc⟩ | ⟨rfl, rfl⟩
    · exact .keep rest _ (by simp [ResetNext, he])
    · have hn : ¬ ResetNext s := by simp [ResetNext, he]
      rcases memWrite_cases hm with ⟨_, rfl⟩ | ⟨ha, hw⟩
      · exact .keep rest _ hn
      · have next : ∀ r, registerAt off.toNat = r → WriteNext s r v := fun r h => ⟨off, n, by simp [he], ha, h⟩
        rcases writeRegister_cases hw with ⟨hr, hx⟩ | ⟨j, hr, rfl⟩ | ⟨c, hr, rfl⟩ | ⟨_, rfl⟩
        · exact stepEffect_commandWrite (next _ hr) hx
        · unfold writeKey
          split
          · exact .keep rest _ hn
          · exact .key rest _ j v (next _ hr) (by simp_all)
        · unfold writeDin
          split
          · exact .keep rest _ hn
          · exact .din rest _ c v (next _ hr) (by simp_all)
        · exact .keep rest _ hn
    · exact stepEffect_generation (by simp [ResetNext, he]) fun h => ⟨h, .inl (by simp [he])⟩
    · exact stepEffect_completion (by simp [ResetNext, he]) (fun h => ⟨h, .inl (by simp [he])⟩) hc
    · exact .reset rest (by simp [ResetNext, he])

theorem core_run_zero (s : State) : Sys2Proof.core.run 0 s = .next s := rfl

theorem host_run_next (M : Host.Core) {k : Nat} {s t : M.State} (h : M.step s = .next t) :
    M.run (k + 1) s = M.run k t := by
  simp [Host.Core.run, h]

/-- The first step of a longer run. -/
theorem core_run_next {k : Nat} {s t : State} (h : step s = .next t) :
    Sys2Proof.core.run (k + 1) s = Sys2Proof.core.run k t :=
  host_run_next Sys2Proof.core h

end Sys2Proof.Machine
end

