-- ==== Sys2Proof/Tests/Slice0.lean ====
section
/-! SUPPORT. The model's own tests: the form checks, decoding, one step per command, and a witness for the hypotheses of
every statement of Certificates/Slice0/Obligations.lean. Expected values are those of spec/95_test_vectors.md. -/

open Sys2Proof Sys2Proof.Machine

namespace Sys2Proof.Tests

/-! ### WellFormed refuses an ill-formed command -/

theorem test_wellFormed_accepts :
    WellFormed (.setupKey 128 3) = true ∧ WellFormed (.setupKey 192 1) = true ∧ WellFormed (.setupKey 256 2) = true
    ∧ WellFormed .encrypt = true ∧ WellFormed .decrypt = true := by decide

/-- R114: a KEYBITS that is no key length, at the edges of the legal values. -/
theorem test_wellFormed_refuses_keybits :
    WellFormed (.setupKey 0 3) = false ∧ WellFormed (.setupKey 129 3) = false ∧ WellFormed (.setupKey 511 3) = false
    ∧ KeybitsWellFormed 64 = false := by decide

/-- R113: MODE = 0. -/
theorem test_wellFormed_refuses_mode : WellFormed (.setupKey 128 0) = false ∧ ModeWellFormed 0 = false := by decide

/-! ### Decoding: words written out from R111 and R112, field by field -/

/-- reserved 0 (15 bits), KEYBITS = 192 (9 bits), reserved 0 (2 bits), MODE = 2 (2 bits), OP = 1 (4 bits). -/
theorem test_decode_setupKey : decode 0b000000000000000_011000000_00_10_0001#32 = .command (.setupKey 192 2) := by decide

/-- Bits 31:4 zero, OP = 2. -/
theorem test_decode_encrypt : decode 0b0000000000000000000000000000_0010#32 = .command .encrypt := by decide

/-- Bits 31:4 zero, OP = 3. -/
theorem test_decode_decrypt : decode 0b0000000000000000000000000000_0011#32 = .command .decrypt := by decide

/-- Section 6 of spec/95_test_vectors.md: the illegal words. -/
theorem test_decode_illegal :
    [0x00000000#32, 0x00000004, 0x0000000F, 0x00020031, 0x00008071, 0x000080B1, 0x0000C0C1, 0x80008031, 0x00000012,
      0x00008002, 0x80000003, 0xFFFFFFFF].all (fun v => decode v == .illegal) = true := by decide

/-- Section 6 of spec/95_test_vectors.md: the invalid words. -/
theorem test_decode_invalid :
    [0x00008001#32, 0x00000031, 0x00004031, 0x00008131, 0x0001FF31].all (fun v => decode v == .invalid) = true := by
  decide

/-- The opcode table's words: OP alone, every other bit 0. -/
theorem test_decodeTableWord :
    decodeTableWord 32 1 = some (.setupKey 0 0) ∧ decodeTableWord 32 2 = some .encrypt
    ∧ decodeTableWord 32 3 = some .decrypt ∧ decodeTableWord 32 0 = none := by decide

/-! ### States -/

/-- The block after table generation: READY = 1, BUSY = 0. -/
def idle : State := { State.reset with ready := true }

/-- The block with the command word `v` in progress. -/
def running (v : Word) : State := { idle with busy := true, cur := v }

/-- The idle block, with the schedule flags set. -/
def scheduled : State := { idle with encValid := true, decValid := true, nr := 10 }

/-- `s` with the steps `es` to come. -/
def pending (es : List Event) (s : State) : State := { s with events := es }

/-- The block after a SETUP_KEY 128, both, of the zero key. -/
def established : State := setupKeyComplete Config.build 128 3 (running 0x00008031)

/-! ### SETUP_KEY -/

/-- Section 7.1, row 8: accepted, STATUS reads 0x00000003. -/
theorem test_setupKey_accept :
    ∃ t, exec (.setupKey 128 3) idle = .next t ∧ t.cur = 0x00008031 ∧ statusValue t = 0x00000003 :=
  ⟨_, rfl, by decide, by decide⟩

/-- Section 3.3, rows 8 and 12: the word with RotWord and Rcon, and the 256-bit extra SubWord. -/
theorem test_setupKey_expansion :
    expandTerm .be 8 8 0x0914dff4 ^^^ 0x603deb10 = 0x9ba35411 ∧ expandTerm .be 8 12 0x2067fcde ^^^ 0x1f352c07 = 0xa8b09c1a
    ∧ expandTerm .be 6 10 0x6c827f6b ^^^ 0x62f8ead2 = 0x0e7a95b9 := by
  simp only [expandTerm, subWord, sbox_eq]
  decide +kernel

/-! ### ENCRYPT and DECRYPT -/

/-- Sections 3.1 and 4.1: vector V5 through the key expansion and the whole cipher, as little-endian internal words. -/
theorem test_encrypt_v5 :
    cipher .le (ekStorage 10 (keyExpand .le 4 [0x16157e2b, 0xa6d2ae28, 0x8815f7ab, 0x3c4fcf09])) 10
        #v[0xa8f64332, 0x8d305a88, 0xa2983131, 0x340737e0]
      = #v[0x1d842539, 0xfb09dc02, 0x978511dc, 0x320b6a19] := by decide +kernel

/-- Section 4.5, CE2 and section 7.1, row 4: without a schedule ENCRYPT is rejected with NO_SCHEDULE. -/
theorem test_encrypt_rejected : ∃ t, exec .encrypt idle = .next t ∧ statusValue t = 0x00000301 :=
  ⟨_, rfl, by decide⟩

/-- Section 4.4: one full inverse round of V5 (DK round key 1), as big-endian internal words. -/
theorem test_decrypt_round :
    rround .be #v[0x49db873b, 0x45395389, 0x7f02d2f1, 0x77de961a] #v[0x2b3708a7, 0xf262d405, 0xbc3ebdbf, 0x4b617d62]
      = #v[0xd4bf5d30, 0xe0b452ae, 0xb84111f1, 0x1e2798e5] := by
  simp only [rround, rt, rt0, invSbox_eq, gmul_eq]
  decide +kernel

/-- Section 4.4: the final inverse round of V5 gives the plaintext. -/
theorem test_decrypt_final :
    rfinal .be #v[0xd4bf5d30, 0xe0b452ae, 0xb84111f1, 0x1e2798e5] #v[0x2b7e1516, 0x28aed2a6, 0xabf71588, 0x09cf4f3c]
      = #v[0x3243f6a8, 0x885a308d, 0x313198a2, 0xe0370734] := by
  simp only [rfinal, rs, invSbox_eq]
  decide +kernel

/-! ### Tables and transforms -/

/-- Section 2.6: FT and RT at 0x53, both orders. -/
theorem test_round_tables :
    ft .le 1 0x53 = 0xEDEDC12C ∧ ft .be 3 0x53 = 0xEDED2CC1 ∧ rt .le 3 0x53 = 0x4D46BDE6 ∧ rt .be 2 0x53 = 0xBD464DE6 := by
  simp only [ft, rt, ft0, rt0, sbox_eq, invSbox_eq, gmul_eq]
  decide +kernel

/-- Section 2.7: GFTBL at 0, 0x53 and 0xFF. -/
theorem test_gftbl :
    gftblWord 0 = 0x00015263 ∧ gftblWord 0x53 = 0x30D050ED ∧ gftblWord 0xFF = 0x07017D16 := by
  refine ⟨?_, ?_, ?_⟩ <;> simp only [gftblWord, log_eq, pow_eq _ (Fin.is_lt _), sbox_eq, invSbox_eq] <;> decide +kernel

/-- Section 2.8: a MixColumn row and its inverse. -/
theorem test_mixColumn :
    mixColumn .be 0xf20a225c = 0x9fdc589d ∧ invMixColumn .le 0xd5d4d4d4 = 0xdadfd9dd := by
  simp only [mixColumn, mixLane, invMixColumn, invMixLane, gmul_eq]
  decide +kernel

/-! ### The lifecycle of section 7.1, one step a theorem -/

/-- Row 2: a CMD write before READY. -/
theorem test_not_ready :
    ∃ t, step (pending [asmWr 0x000 0x00008031] State.reset) = .next t ∧ statusValue t = 0x00000500 :=
  ⟨_, rfl, by decide⟩

/-- Row 3: TABLE_GEN leaves ERR = 5. -/
theorem test_table_gen :
    ∃ t, step { State.reset with err := 5 } = .next t ∧ statusValue t = 0x00000501 := ⟨_, rfl, by decide⟩

/-- Rows 5 and 6: ILLEGAL_CMD and INVALID_PARAM. -/
theorem test_illegal_and_invalid :
    (∃ t, step (pending [asmWr 0x000 0x00000010] idle) = .next t ∧ statusValue t = 0x00000101)
    ∧ ∃ t, step (pending [asmWr 0x000 0x00008001] idle) = .next t ∧ statusValue t = 0x00000201 :=
  ⟨⟨_, rfl, by decide⟩, _, rfl, by decide⟩

/-- Rows 9 and 10: a CMD write while BUSY is recorded as BUSY, a KEY write is dropped. -/
theorem test_busy :
    (∃ t, step (pending [asmWr 0x000 0x00000002] (running 0x00008031)) = .next t ∧ statusValue t = 0x00000403)
    ∧ ∃ t, step (pending [asmWr 0x020 0x12345678] (running 0x00008031)) = .next t ∧ t.key[0] = 0 :=
  ⟨⟨_, rfl, by decide⟩, _, rfl, by decide⟩

/-- Row 11: the completion of SETUP_KEY 128, both, with ERR = 4 from row 9. -/
theorem test_completion :
    ∃ t, step { running 0x00008031 with err := 4 } = .next t ∧ statusValue t = 0x000A041D := ⟨_, rfl, by decide⟩

/-- Rows 14 and 15: ENCRYPT accepted and completed. -/
theorem test_encrypt_lifecycle :
    (∃ t, step (pending [asmWr 0x000 0x00000002] { scheduled with done := true }) = .next t ∧ statusValue t = 0x000A001B)
    ∧ ∃ t, step { scheduled with busy := true, cur := 2 } = .next t ∧ statusValue t = 0x000A001D :=
  ⟨⟨_, rfl, by decide⟩, _, rfl, by decide⟩

/-- Section 7.3: a 1-byte read, a misaligned read, a write to STATUS and a read of a reserved offset. -/
theorem test_bus_accesses :
    (∃ t, step (pending [.read 0x004 1] idle) = .next t ∧ t.reply = some ⟨true, 0⟩)
    ∧ (∃ t, step (pending [.read 0x006 4] idle) = .next t ∧ t.reply = some ⟨true, 0⟩)
    ∧ (∃ t, step (pending [asmWr 0x004 0x12345678] idle) = .next t ∧ statusValue t = 1 ∧ t.reply = some ⟨false, 0⟩)
    ∧ ∃ t, step (pending [asmRd 0x00C] idle) = .next t ∧ t.reply = some ⟨false, 0⟩ :=
  ⟨⟨_, rfl, rfl⟩, ⟨_, rfl, rfl⟩, ⟨_, rfl, by decide, rfl⟩, _, rfl, rfl⟩

/-- Section 5: PARAMS in the four builds. -/
theorem test_params :
    paramsValue ⟨.le, .le⟩ = 0 ∧ paramsValue ⟨.le, .be⟩ = 2 ∧ paramsValue ⟨.be, .le⟩ = 1 ∧ paramsValue ⟨.be, .be⟩ = 3 := by
  decide

/-- R120, R121: the assembler's words and offsets (spec/95_test_vectors.md section 8, P1). -/
theorem test_assembler :
    asmSetupKey 128 3 = 0x00008031 ∧ asmCmd .encrypt = [asmWr 0x000 0x00000002]
    ∧ asmLdKey [0x00010203, 0x04050607] = [asmWr 0x020 0x00010203, asmWr 0x024 0x04050607]
    ∧ asmLdBlk 1 2 3 4 = [asmWr 0x040 1, asmWr 0x044 2, asmWr 0x048 3, asmWr 0x04C 4]
    ∧ waitIdleEnds ⟨false, 0x000A001D⟩ = true ∧ waitReadyEnds ⟨false, 0⟩ = false ∧ cmdAccepted 0x00000403 = false
    ∧ asmCmdChk .decrypt = [asmWr 0x000 3, asmRd 0x004] ∧ asmRdOut.length = 4
    ∧ (bootSequence [1, 2, 3, 4] 128 3 1 2 3 4 .encrypt).length = 22 := by decide

/-- R71: the first and the last host address of the window. -/
theorem test_host_addresses :
    hostReadAt Config.baseAddr 4 = some (.read 0x000 4)
    ∧ hostWriteAt (Config.baseAddr + 0xFFC) 4 7 = some (.write 0xFFC 4 7)
    ∧ hostReadAt (Config.baseAddr + 0x1000) 4 = none := by
  simp [hostReadAt, hostWriteAt, windowOffset, windowOffsetFrom]

/-! ### The host's question: the first instruction after reset -/

/-- The step after `withFetchWord` runs the command: the table's SETUP_KEY word has KEYBITS = 0 and is an invalid one; a
block without a schedule rejects ENCRYPT and DECRYPT. -/
theorem test_withFetchWord :
    (∃ t, step (State.reset.withFetchWord 32 0x00008031) = .next t ∧ t.busy = true ∧ t.cur = 0x00008031)
    ∧ (∃ t, step (State.reset.withFetchWord 32 1) = .next t ∧ t.err = 2)
    ∧ (∃ t, step (State.reset.withFetchWord 32 2) = .next t ∧ t.err = 3)
    ∧ ∃ t, step (State.reset.withFetchWord 32 3) = .next t ∧ t.err = 3 :=
  ⟨⟨_, rfl, rfl, by decide⟩, ⟨_, rfl, by decide⟩, ⟨_, rfl, by decide⟩, _, rfl, by decide⟩

/-! ### Witnesses for the hypotheses of the statements -/

/-- The invariants hold of a block with an established schedule. -/
theorem established_blockInv : BlockInv established where
  busy_ready := by simp [established, setupKeyComplete]
  nr_legal := by decide
  valid_nr := by decide
  err_legal := by decide
  cur_legal := by simp [established, setupKeyComplete]
  unused_zero := by
    intro i hi
    have hi : 44 ≤ i.val := hi
    have : ¬ i.val < 44 := by omega
    constructor
    · simp [established, setupKeyComplete, ekStorage, show scheduleLength (nrOf (nkOf 128#9)) = 44 from rfl, this]
    · simp [established, setupKeyComplete, dkStorage, show scheduleLength (nrOf (nkOf 128#9)) = 44 from rfl, this]
  empty_zero := by
    intro h
    exact absurd h (by decide)

theorem established_scheduleInv : ScheduleInv Config.build established where
  encrypt_valid := by simp [established, setupKeyComplete]
  decrypt_valid := by simp [established, setupKeyComplete]
  nr_established := by decide
  established := fun _ => ⟨128, 3, (running 0x00008031).key, by decide, ⟨rfl, rfl, rfl⟩, id, id⟩

theorem test_witness_DecodeAndEncodeAgree :
    decodeWord 0x00008001 = some (.setupKey 128 0) ∧ WellFormed (.setupKey 256 3) = true
    ∧ decode 0x00010031 = .command (.setupKey 256 3) := by decide

theorem test_witness_DecoderFollowsTheFields :
    idle.ready = true ∧ idle.busy = false ∧ decode 0x00000000 = .illegal ∧ decode 0x00008001 = .invalid := by decide

theorem test_witness_ElevenLegalCommandWords :
    decode 0x00008011 = .command (.setupKey 128 1) ∧ decode 0x0000C021 = .command (.setupKey 192 2)
    ∧ decode 0x00010031 = .command (.setupKey 256 3) := by decide

/-- A block with little-endian internal words whose DOUT0 holds the bytes 00 00 00 01. -/
def leBlock : State := { idle with doutW := idle.doutW.set 0 0x01000000 }

/-- A block with big-endian internal words whose DOUT0 holds the same bytes. -/
def beBlock : State := { idle with doutW := idle.doutW.set 0 0x00000001 }

/-- The two blocks look alike before any sequence of steps; at a whole and a narrow read of PARAMS, at a read of
DOUT0 and at a write. -/
theorem test_witness_InternalOrderIsNotObservable :
    (∀ es, SameView ⟨.le, .be⟩ ⟨.be, .be⟩ (pending es leBlock) (pending es beBlock)) ∧ leBlock ≠ beBlock
    ∧ (∃ t, stepIn ⟨.le, .be⟩ (pending [.read 0x008 4] leBlock) = .next t)
    ∧ (∃ t, stepIn ⟨.le, .be⟩ (pending [.read 0x008 2] leBlock) = .next t) ∧ 2 ≠ 4
    ∧ (∃ t, stepIn ⟨.le, .be⟩ (pending [.read 0x050 4] leBlock) = .next t) ∧ (0x050#12) ≠ 0x008
    ∧ ∃ t, stepIn ⟨.le, .be⟩ (pending [asmWr 0x020 7] leBlock) = .next t := by
  refine ⟨fun es => ⟨rfl, rfl, rfl, rfl, rfl, rfl, rfl, rfl, rfl, rfl, ?_, ?_, ?_, rfl⟩, by decide, ⟨_, rfl⟩, ⟨_, rfl⟩,
    by decide, ⟨_, rfl⟩, by decide, _, rfl⟩
  · show ∀ i : Fin 4, marshalOut ⟨.le, .be⟩ leBlock.doutW[i] = marshalOut ⟨.be, .be⟩ beBlock.doutW[i]
    decide
  · show ∀ i : Fin 60, marshalOut ⟨.le, .be⟩ leBlock.ek[i] = marshalOut ⟨.be, .be⟩ beBlock.ek[i]
    decide +kernel
  · show ∀ i : Fin 60, marshalOut ⟨.le, .be⟩ leBlock.dk[i] = marshalOut ⟨.be, .be⟩ beBlock.dk[i]
    decide +kernel

theorem test_witness_PowerTable_and_LogInverts : (0 : Nat) < 255 ∧ 254 < 255 ∧ (0xFF#8) ≠ 0 ∧ pow 7 = pow 7 :=
  ⟨by decide, by decide, by decide, rfl⟩

theorem test_witness_FieldProduct_and_Inverse : (0x57#8) ≠ 0 ∧ (0x83#8) ≠ 0 := by decide

theorem test_witness_SboxesAreInversePermutations : sbox 0x53 = sbox 0x53 := rfl

theorem test_witness_RotatedTables_and_RoundConstants : (1 : Fin 4) ≠ 0 ∧ (3 : Fin 4) ≠ 0 ∧ 30 < 31 := by decide

/-- The three lengths, and for the longest the first and the last new word, one with Rcon, one with the extra SubWord. -/
theorem test_witness_KeyExpansionRecurrence :
    KeybitsWellFormed 128 = true ∧ KeybitsWellFormed 192 = true ∧ KeybitsWellFormed 256 = true
    ∧ nkOf 256 ≤ 8 ∧ 59 < 4 * (nrOf (nkOf 256) + 1) ∧ 8 % nkOf 256 = 0 ∧ (nkOf 256 = 8 ∧ 12 % 8 = 4)
    ∧ (7 : Fin 8).val < nkOf 256 := by decide

theorem test_witness_SetupKeyCompletes :
    (running 0x00008031).busy = true ∧ setupKeyLegal 128 3 = true ∧ setupKeyLegal 192 1 = true
    ∧ setupKeyLegal 256 2 = true := by decide

/-- Two states whose KEY differs from KEY4 on, for a 128-bit key. -/
theorem test_witness_SetupKeyDependsOnItsOperandsAlone :
    setupKeyLegal 128 3 = true ∧ (running 1).busy = true
    ∧ (∀ j : Fin 8, j.val < nkOf 128 → (running 1).key[j] = { running 1 with key := (running 1).key.set 4 7 }.key[j])
    ∧ running 1 ≠ { running 1 with key := (running 1).key.set 4 7 } := by decide

theorem test_witness_SetupKeyIsAcceptedOrRejected :
    idle.ready = true ∧ idle.busy = false ∧ setupKeyLegal 256 1 = true
    ∧ ((0 : BitVec 2) = 0 ∨ (128#9).toNat ∉ [128, 192, 256]) ∧ ((3 : BitVec 2) = 0 ∨ (511#9).toNat ∉ [128, 192, 256]) := by
  decide

theorem test_witness_Encrypt_and_Decrypt_complete_and_need_their_schedule :
    (running 2).busy = true ∧ (running 3).busy = true
    ∧ (scheduled.ready = true ∧ scheduled.busy = false ∧ scheduled.encValid = true ∧ scheduled.decValid = true)
    ∧ (idle.ready = true ∧ idle.busy = false ∧ idle.encValid = false ∧ idle.decValid = false) := by decide

/-- A decrypt schedule of the words 0, 1, 2, ... for 14 rounds. -/
theorem test_witness_InverseCipherIsTheTextbookInverseCipher (o : ByteOrder) :
    14 ≤ 14 ∧ DecryptScheduleOf o 14 (Vector.ofFn fun i => BitVec.ofNat 32 i.val)
      (Vector.ofFn fun i => dkWord o 14 (Vector.ofFn fun j : Fin 60 => BitVec.ofNat 32 j.val).toList i.val) :=
  ⟨by decide, fun i _ => by simp⟩

theorem test_witness_DecryptionUndoesEncryption :
    setupKeyLegal 128 2 = true ∧ (2#2).getLsbD 1 = true ∧ setupKeyLegal 256 3 = true ∧ (3#2).getLsbD 1 = true := by
  decide

theorem test_witness_RoundTripThroughTheRegisters :
    BlockInv established ∧ ScheduleInv Config.build established ∧ Quiescent established
    ∧ established.encValid = true ∧ established.decValid = true :=
  ⟨established_blockInv, established_scheduleInv, ⟨rfl, rfl⟩, rfl, rfl⟩

theorem test_witness_RegisterMap :
    registerOffset (.encRk 59) = some 0x1EC ∧ registerOffset (.rt0w 255) = some 0xFFC ∧ registerAt 0x1F0 = .reserved
    ∧ registerAt 0x3FC = .reserved ∧ registerAt 0x00C = .reserved ∧ registerAt 0x400 = .gftbl 0 := by decide

theorem test_witness_WindowOfHostAddresses :
    windowOffset Config.baseAddr = some 0x000 ∧ windowOffset (Config.baseAddr + 0xFFF) = some 0xFFF := by
  simp [windowOffset, windowOffsetFrom]

theorem test_witness_MisalignedOrNarrowAccess :
    (1 ≠ 4 ∨ (0x004#12).toNat % 4 ≠ 0) ∧ (4 ≠ 4 ∨ (0xFFE#12).toNat % 4 ≠ 0)
    ∧ (pending [.read 0x004 1] idle).events = .read 0x004 1 :: []
    ∧ (pending [.write 0xFFE 4 9] idle).events = .write 0xFFE 4 9 :: [] := by decide

theorem test_witness_ReadsHaveNoSideEffect :
    (pending [asmRd 0xFFC] idle).events = .read 0xFFC 4 :: [] ∧ (0xFFC#12).toNat % 4 = 0
    ∧ (∃ t, step (pending [asmRd 0x004] idle) = .next t) ∧ (0x000#12).toNat = 0x000
    ∧ (0x020#12).toNat = 0x020 + 4 * (0 : Fin 8).val ∧ (0x03C#12).toNat = 0x020 + 4 * (7 : Fin 8).val
    ∧ (0x04C#12).toNat = 0x040 + 4 * (3 : Fin 4).val ∧ (0x050#12).toNat = 0x050 + 4 * (0 : Fin 4).val
    ∧ (0x05C#12).toNat = 0x050 + 4 * (3 : Fin 4).val ∧ (0x1EC#12).toNat = 0x100 + 4 * (59 : Fin 60).val
    ∧ (0x2EC#12).toNat = 0x200 + 4 * (59 : Fin 60).val :=
  ⟨rfl, rfl, ⟨_, rfl⟩, rfl, rfl, rfl, rfl, rfl, rfl, rfl, rfl⟩

/-- Section 7.1, rows 8 and 10: while BUSY = 1, CMD reads 0, not the word in CUR, and KEY0 reads its word. -/
theorem test_reads_while_busy :
    (∃ t, step (pending [asmRd 0x000] (running 0x00008031)) = .next t ∧ t.reply = some ⟨false, 0⟩)
    ∧ ∃ t, step (pending [asmRd 0x020] { running 0x00008031 with key := idle.key.set 0 0x2B7E1516 }) = .next t
        ∧ t.reply = some ⟨false, 0x2B7E1516⟩ := ⟨⟨_, rfl, rfl⟩, _, rfl, rfl⟩

theorem test_witness_StatusBits :
    (running 0x00008031).ready = true ∧ (running 0x00008031).busy = true ∧ (running 0x00008031).err = 0
    ∧ ∃ t, exec (.setupKey 128 3) (running 0x00008031) = .next t := ⟨rfl, rfl, rfl, _, rfl⟩

/-- The first and the last KEY and DIN register, idle and busy. -/
theorem test_witness_KeyAndDinWrites :
    (pending [asmWr 0x020 7] idle).events = .write 0x020 4 7 :: [] ∧ (0x020#12).toNat = 0x020 + 4 * (0 : Fin 8).val
    ∧ (0x03C#12).toNat = 0x020 + 4 * (7 : Fin 8).val ∧ (0x040#12).toNat = 0x040 + 4 * (0 : Fin 4).val
    ∧ (0x04C#12).toNat = 0x040 + 4 * (3 : Fin 4).val ∧ idle.busy = false
    ∧ (∃ t, step (pending [asmWr 0x03C 7] idle) = .next t) ∧ ∃ t, step (pending [asmWr 0x04C 7] idle) = .next t :=
  ⟨rfl, rfl, rfl, rfl, rfl, rfl, ⟨_, rfl⟩, _, rfl⟩

theorem test_witness_WritesToReadOnlyRegisters :
    (pending [asmWr 0x05C 7] idle).events = .write 0x05C 4 7 :: [] ∧ (0x05C#12).toNat % 4 = 0
    ∧ registerAt (0x05C#12).toNat ≠ .cmd ∧ (∀ j, registerAt (0x05C#12).toNat ≠ .key j)
    ∧ (∀ c, registerAt (0x05C#12).toNat ≠ .din c) ∧ registerAt (0x01C#12).toNat = .reserved := by decide

/-- The first and the last reserved offset, a narrow read and a misaligned write. -/
theorem test_witness_ReservedOffsetsReadZero :
    registerAt (0x00C#12).toNat = .reserved ∧ registerAt (0x3FC#12).toNat = .reserved
    ∧ registerAt (0x061#12).toNat = .reserved ∧ (pending [.read 0x00C 1] idle).events = .read 0x00C 1 :: []
    ∧ (pending [.write 0x061 4 7] idle).events = .write 0x061 4 7 :: [] := by decide

theorem test_witness_ScheduleViews :
    BlockInv established ∧ 4 * (established.nr.toNat + 1) ≤ (44 : Fin 60).val
    ∧ 4 * (established.nr.toNat + 1) ≤ (59 : Fin 60).val := ⟨established_blockInv, by decide, by decide⟩

theorem test_witness_TableViews : State.reset.ready = false ∧ idle.ready = true := by decide

theorem test_witness_CommandWriteChecksInOrder :
    State.reset.ready = false ∧ (running 1).ready = true ∧ (running 1).busy = true ∧ decode 0x0000C0C1 = .illegal
    ∧ decode 0x0001FF01 = .invalid ∧ idle.encValid = false ∧ scheduled.encValid = true := by decide

theorem test_witness_StepRunsTheDecodedCommand :
    (pending [asmWr 0x000 0x00008001] idle).events = .write 0x000 4 0x00008001 :: []
    ∧ decodeWord 0x00008001 = some (.setupKey 128 0) ∧ idle.ready = true ∧ idle.busy = false
    ∧ (pending [.complete] (running 2)).events = .complete :: [] ∧ (running 2).busy = true
    ∧ decode (running 2).cur = .command .encrypt ∧ (running 3).events = [] ∧ (running 3).ready = true
    ∧ decode (running 3).cur = .command .decrypt := by decide

/-- A rejected write and an accepted one. -/
theorem test_witness_RejectionWritesErrOnly :
    (pending [asmWr 0x000 0] idle).events = .write 0x000 4 0 :: []
    ∧ (∃ t, step (pending [asmWr 0x000 0] idle) = .next t ∧ t.err ≠ 0)
    ∧ ∃ t, step (pending [asmWr 0x000 0x00008031] idle) = .next t ∧ t.err = 0 :=
  ⟨rfl, ⟨_, rfl, by decide⟩, _, rfl, by decide⟩

theorem test_witness_GenerationStep :
    (pending [.generate] State.reset).events = .generate :: [] ∧ State.reset.events = [] ∧ State.reset.ready = false := by
  decide

theorem test_witness_ResetClearsEverything :
    (pending [.reset] (running 0x00008031)).events = .reset :: [] ∧ (pending [.reset] (running 0x00008031)).busy = true := by
  decide

theorem test_witness_QuiescentBlockRests :
    Quiescent idle ∧ idle.events = [] ∧ (pending [.complete] idle).events = .complete :: []
    ∧ (pending [.generate] idle).events = .generate :: [] := ⟨⟨rfl, rfl⟩, rfl, rfl, rfl⟩

/-- A CMD write and a completion of each command. -/
theorem test_witness_FrameOfTheCommands :
    (∃ t, exec (.setupKey 128 3) idle = .next t) ∧ (∃ t, exec .encrypt idle = .next t) ∧ (∃ t, exec .decrypt idle = .next t)
    ∧ (∃ t, exec (.setupKey 128 3) (running 0x00008031) = .next t) ∧ (∃ t, exec .encrypt (running 2) = .next t)
    ∧ (∃ t, exec .decrypt (running 3) = .next t) ∧ idle.busy = false ∧ (running 2).busy = true :=
  ⟨⟨_, rfl⟩, ⟨_, rfl⟩, ⟨_, rfl⟩, ⟨_, rfl⟩, ⟨_, rfl⟩, ⟨_, rfl⟩, rfl, rfl⟩

theorem test_witness_EveryStepKeepsTheInvariants :
    BlockInv established ∧ ScheduleInv Config.build established ∧ ∃ t, step established = .next t :=
  ⟨established_blockInv, established_scheduleInv, _, rfl⟩

theorem test_witness_NoStepFails_and_EveryRun : BlockInv established := established_blockInv

theorem test_witness_HostAccessesWhileBusy :
    (running 2).ready = true ∧ (running 2).busy = true
    ∧ ∀ e ∈ [asmWr 0x000 2, asmWr 0x020 7, asmRd 0x050], isHostAccess e = true := by decide

/-- A generation that sets READY, a KEY write, a DIN write and a reset that clears KEY. -/
theorem test_witness_WhoWritesReadyKeyAndDin :
    (∃ t, step State.reset = .next t ∧ t.ready ≠ State.reset.ready)
    ∧ (∃ t, step (pending [asmWr 0x020 7] idle) = .next t ∧ t.key[(0 : Fin 8)] ≠ (pending [asmWr 0x020 7] idle).key[(0 : Fin 8)])
    ∧ (∃ t, step (pending [asmWr 0x04C 7] idle) = .next t ∧ t.din[(3 : Fin 4)] ≠ (pending [asmWr 0x04C 7] idle).din[(3 : Fin 4)])
    ∧ ∃ t, step (pending [.reset] { idle with key := idle.key.set 7 7 }) = .next t ∧ t.key[(7 : Fin 8)] ≠ 7 :=
  ⟨⟨_, rfl, by decide⟩, ⟨_, rfl, by decide⟩, ⟨_, rfl, by decide⟩, _, rfl, by decide⟩

/-- A completion of SETUP_KEY, and a reset that clears DOUT_W. -/
theorem test_witness_WhoWritesTheSchedulesAndTheOutput :
    (∃ t, step (running 0x00008031) = .next t ∧ t.nr ≠ (running 0x00008031).nr)
    ∧ ∃ t, step (pending [.reset] { idle with doutW := idle.doutW.set 0 7 }) = .next t ∧ t.doutW ≠ idle.doutW.set 0 7 :=
  ⟨⟨_, rfl, by decide⟩, _, rfl, by decide⟩

/-- A rejection, an accept, a completion, an accept that clears DONE, an accept that clears the VALID bits, and a reset of a
busy block. -/
theorem test_witness_WhoWritesTheFlags :
    (∃ t, step (pending [asmWr 0x000 0] idle) = .next t ∧ t.err ≠ idle.err)
    ∧ (∃ t, step (pending [asmWr 0x000 0x00008031] idle) = .next t ∧ t.busy = true ∧ idle.busy = false)
    ∧ (∃ t, step (running 0x00008031) = .next t ∧ t.busy = false ∧ t.done = true ∧ (running 0x00008031).done = false
        ∧ t.encValid = true ∧ t.decValid = true ∧ (running 0x00008031).encValid = false
        ∧ (running 0x00008031).decValid = false)
    ∧ (∃ t, step (pending [asmWr 0x000 2] { scheduled with done := true }) = .next t ∧ t.done = false)
    ∧ (∃ t, step (pending [asmWr 0x000 0x00008031] scheduled) = .next t ∧ t.encValid ≠ scheduled.encValid)
    ∧ ResetNext (pending [.reset] (running 2)) ∧ ∃ t, step (pending [.reset] (running 2)) = .next t :=
  ⟨⟨_, rfl, by decide⟩, ⟨_, rfl, rfl, rfl⟩, ⟨_, rfl, rfl, rfl, rfl, rfl, rfl, rfl, rfl⟩, ⟨_, rfl, rfl⟩, ⟨_, rfl, by decide⟩,
    rfl, _, rfl⟩

/-- Two instances with windows and byte orders of their own. -/
def twoInstances : List Instance := [⟨3, ⟨.le, .be⟩, idle⟩, ⟨2, ⟨.be, .le⟩, State.reset⟩]

/-- R71, R345: a read at 0x2004 is one of the second instance's STATUS, and no window holds 0x4000. -/
theorem test_host_access :
    hostAccess 0x2004 (.read · 4) twoInstances
      = [⟨3, ⟨.le, .be⟩, idle⟩, ⟨2, ⟨.be, .le⟩, pending [.read 0x004 4] State.reset⟩]
    ∧ hostAccess 0x4000 (.read · 4) twoInstances = twoInstances := by decide

/-- The second instance steps; the last address of the first one's window and the first address of the second one's; an
address in no window. -/
theorem test_witness_InstancesAreIndependent :
    (∃ after, instanceStep 1 twoInstances = .next after) ∧ (0 : Nat) ≠ 1
    ∧ twoInstances[1]? = some ⟨2, ⟨.be, .le⟩, State.reset⟩ ∧ OwnWindows twoInstances
    ∧ reachedInstance twoInstances (4096 * 3 + 0xFFF) = some (0, 0xFFF) ∧ reachedInstance twoInstances 0x2000 = some (1, 0)
    ∧ reachedInstance twoInstances 0x1FFF = none := by
  refine ⟨⟨_, rfl⟩, by decide, by decide, ?_, by decide, by decide, by decide⟩
  unfold OwnWindows
  decide

end Sys2Proof.Tests
end

section
/-! PROOFS for the statements about the state (spec/10_state.md): the invariants of R50, what may change each piece of state
(R33 to R45), reset (R51) and the frame of the commands (R49). -/

/-! ### The decoder: what an accepted word is -/

namespace Sys2Proof

/-- Everything `decodeWord` can give: one form of word for each command (R111, R112, R115). -/
theorem decodeWord_cases {v : Word} {i : Instr} (h : decodeWord v = some i) :
    (opField v = 1 ∧ reservedLow v = 0 ∧ reservedHigh v = 0 ∧ i = .setupKey (keybitsField v) (modeField v))
    ∨ (opField v = 2 ∧ upperBits v = 0 ∧ i = .encrypt)
    ∨ (opField v = 3 ∧ upperBits v = 0 ∧ i = .decrypt) := by
  unfold decodeWord at h
  split_ifs at h with h1 hr h2 hu h3 hu <;> cases h
  · obtain ⟨hlow, hhigh⟩ : reservedLow v = 0 ∧ reservedHigh v = 0 := by simpa using hr
    exact .inl ⟨h1, hlow, hhigh, rfl⟩
  · exact .inr (.inl ⟨h2, by simpa using hu, rfl⟩)
  · exact .inr (.inr ⟨h3, by simpa using hu, rfl⟩)

/-- Encoding the command read from a word gives the word back. -/
theorem encode_of_decodeWord {v : Word} {i : Instr} (h : decodeWord v = some i) : encode i = v := by
  rcases decodeWord_cases h with ⟨hop, hlow, hhigh, rfl⟩ | ⟨hop, hup, rfl⟩ | ⟨hop, hup, rfl⟩
  · have hv := fields_append v
    rw [hop, hlow, hhigh] at hv
    exact hv
  · have hv := upperBits_append v
    rw [hop, hup] at hv
    exact hv
  · have hv := upperBits_append v
    rw [hop, hup] at hv
    exact hv

theorem decode_of_decodeWord {v : Word} {i : Instr} (h : decodeWord v = some i) (hl : operandsLegal i = true) :
    decode v = .command i := by
  simp [decode, h, hl]

/-- The word an accept stores in CUR, `encode i`, is the word written, and a legal one. -/
theorem decode_encode_of_decodeWord {v : Word} {i : Instr} (h : decodeWord v = some i) (hl : operandsLegal i = true) :
    decode (encode i) = .command i := by
  rw [encode_of_decodeWord h]
  exact decode_of_decodeWord h hl

end Sys2Proof

namespace Sys2Proof.Machine

/-! ### The schedules a SETUP_KEY stores -/

theorem ekStorage_unused (nr : Nat) (w : List Word) (i : Fin 60) (h : scheduleLength nr ≤ i.val) :
    (ekStorage nr w)[i] = 0 := by
  simp [ekStorage, Nat.not_lt.mpr h]

theorem dkStorage_unused (o : ByteOrder) (mode : BitVec 2) (nr : Nat) (w : List Word) (i : Fin 60)
    (h : scheduleLength nr ≤ i.val) : (dkStorage o mode nr w)[i] = 0 := by
  simp [dkStorage, Nat.not_lt.mpr h]

/-- The round counts of the three key lengths (R201). -/
theorem nrOf_cases {keybits : BitVec 9} {mode : BitVec 2} (h : setupKeyLegal keybits mode = true) :
    nrOf (nkOf keybits) = 10 ∨ nrOf (nkOf keybits) = 12 ∨ nrOf (nkOf keybits) = 14 := by
  rcases nkOf_cases h with hk | hk | hk <;> simp [hk, nrOf]

/-! ### The invariants (a) to (f) of R50: at reset, and kept by each operation -/

theorem blockInv_reset : BlockInv State.reset where
  busy_ready := by simp [State.reset]
  nr_legal := by simp [State.reset]
  valid_nr := by simp [State.reset]
  err_legal := by simp [State.reset]
  cur_legal := by simp [State.reset]
  unused_zero := by simp [State.reset]
  empty_zero := by simp [State.reset]

theorem scheduleInv_reset (b : Build) : ScheduleInv b State.reset where
  encrypt_valid := by simp [State.reset]
  decrypt_valid := by simp [State.reset]
  nr_established := by simp [State.reset]
  established := by simp [State.reset]

namespace BlockInv

variable {s : State}

/-- The invariants do not speak of KEY, DIN, DOUT_W, the events and the reply. -/
theorem withData (hs : BlockInv s) (key : Words 8) (din doutW : Words 4) (e : List Event) (r : Option Reply) :
    BlockInv { s with key := key, din := din, doutW := doutW, events := e, reply := r } :=
  { hs with }

theorem withReady (hs : BlockInv s) : BlockInv { s with ready := true } :=
  { hs with busy_ready := fun _ => rfl }

theorem reject (hs : BlockInv s) (cause : RejectCause) : BlockInv (Machine.reject cause s) :=
  { hs with err_legal := by cases cause <;> simp [rejectCode] }

theorem accept {v : Word} {i : Instr} (hs : BlockInv s) (hr : s.ready = true) (hv : decode v = .command i) :
    BlockInv (Machine.accept v s) :=
  { hs with
    busy_ready := fun _ => hr
    err_legal := by simp [errNone]
    cur_legal := fun _ => ⟨i, hv⟩ }

theorem acceptSetup {v : Word} {i : Instr} (hs : BlockInv s) (hr : s.ready = true) (hv : decode v = .command i) :
    BlockInv (Machine.acceptSetup v s) :=
  { hs.accept hr hv with valid_nr := by simp }

theorem finish (hs : BlockInv s) : BlockInv (Machine.finish s) :=
  { hs with
    busy_ready := by simp
    cur_legal := by simp }

/-- The completion of a SETUP_KEY: NR is one of R201's, not 0, and both storages are 0 from word 4(NR + 1) on (R208). -/
theorem setupKeyComplete {keybits : BitVec 9} {mode : BitVec 2} (hs : BlockInv s) (b : Build)
    (hl : setupKeyLegal keybits mode = true) : BlockInv (Machine.setupKeyComplete b keybits mode s) := by
  have hnr := nrOf_cases hl
  have hne : BitVec.ofNat 4 (nrOf (nkOf keybits)) ≠ 0 := by
    rcases hnr with h | h | h <;> simp [h]
  have htoNat : (BitVec.ofNat 4 (nrOf (nkOf keybits))).toNat = nrOf (nkOf keybits) := by
    rcases hnr with h | h | h <;> simp [h]
  exact {
    busy_ready := by simp
    nr_legal := by rcases hnr with h | h | h <;> simp [h]
    valid_nr := fun _ => hne
    err_legal := hs.err_legal
    cur_legal := by simp
    unused_zero := by
      intro i hi
      rw [setupKeyComplete_nr, htoNat] at hi
      exact ⟨ekStorage_unused _ _ i hi, dkStorage_unused _ _ _ _ i hi⟩
    empty_zero := fun h => absurd h hne }

end BlockInv

/-- Every step keeps the invariants, whatever the block's orders: one case for each thing a step can do. -/
theorem StepEffect.keeps_blockInv {b : Build} {s t : State} (h : StepEffect b s t) (hs : BlockInv s) : BlockInv t := by
  cases h with
  | keep e r => exact hs.withData s.key s.din s.doutW e r
  | generate e => exact hs.withReady.withData s.key s.din s.doutW e s.reply
  | reset e => exact blockInv_reset.withData _ _ _ e _
  | key e r j v => exact hs.withData _ s.din s.doutW e r
  | din e r c v => exact hs.withData s.key _ s.doutW e r
  | reject e r cause => exact (hs.reject cause).withData s.key s.din s.doutW e r
  | acceptSetup e r v keybits mode _ _ hr hd hl =>
    have hv := decode_encode_of_decodeWord hd hl
    exact (hs.acceptSetup hr hv).withData s.key s.din s.doutW e r
  | accept e r v i _ _ hr hd hi =>
    have hl : operandsLegal i = true := by rcases hi with ⟨rfl, _⟩ | ⟨rfl, _⟩ <;> rfl
    have hv := decode_encode_of_decodeWord hd hl
    exact (hs.accept hr hv).withData s.key s.din s.doutW e r
  | completeSetup e keybits mode _ _ hl => exact (hs.setupKeyComplete b hl).withData s.key s.din s.doutW e s.reply
  | completeEncrypt e => exact hs.finish.withData s.key s.din _ e s.reply
  | completeDecrypt e => exact hs.finish.withData s.key s.din _ e s.reply

/-- What the machine's own step, that of the block's build, can do. -/
theorem stepEffect_of_step {s t : State} (h : step s = .next t) : StepEffect Config.build s t :=
  stepEffect (step_eq_stepIn ▸ h)

/-- Settles O52: `stepEffect` names everything a step can do, and each of its cases keeps the invariants. -/
theorem everyStepKeepsTheInvariants : Obligations.EveryStepKeepsTheInvariants := by
  intro s t hs h
  exact (stepEffect_of_step h).keeps_blockInv hs

/-! ### Which steps change each piece of state

Every case of `StepEffect` that is not named in a proof leaves the element as it was. -/

/-- A write to one of several words changes no other one, and that one to the value written. -/
theorem words_set_changes {n : Nat} {w : Words n} {i j : Fin n} {v : Word} (hne : (w.set i v)[j] ≠ w[j]) :
    i = j ∧ (w.set i v)[j] = v := by
  obtain rfl : i = j := by
    by_contra hij
    exact hne (Vector.getElem_set_ne i.isLt j.isLt (Fin.val_ne_of_ne hij))
  exact ⟨rfl, Vector.getElem_set_self i.isLt⟩

namespace StepEffect

variable {b : Build} {s t : State}

theorem ready_changes (h : StepEffect b s t) (hne : t.ready ≠ s.ready) :
    GenerationNext s ∧ t.ready = true ∨ ResetNext s := by
  cases h with
  | generate e hg => exact .inl ⟨hg, rfl⟩
  | reset e hr => exact .inr hr
  | _ => exact absurd rfl hne

theorem key_changes (h : StepEffect b s t) (j : Fin 8) (hne : t.key[j] ≠ s.key[j]) :
    (s.busy = false ∧ ∃ v, WriteNext s (.key j) v ∧ t.key[j] = v) ∨ ResetNext s := by
  cases h with
  | key e r i v hw hb =>
    obtain ⟨rfl, hv⟩ := words_set_changes hne
    exact .inl ⟨hb, v, hw, hv⟩
  | reset e hr => exact .inr hr
  | _ => exact absurd rfl hne

theorem din_changes (h : StepEffect b s t) (c : Fin 4) (hne : t.din[c] ≠ s.din[c]) :
    (s.busy = false ∧ ∃ v, WriteNext s (.din c) v ∧ t.din[c] = v) ∨ ResetNext s := by
  cases h with
  | din e r i v hw hb =>
    obtain ⟨rfl, hv⟩ := words_set_changes hne
    exact .inl ⟨hb, v, hw, hv⟩
  | reset e hr => exact .inr hr
  | _ => exact absurd rfl hne

theorem schedules_change (h : StepEffect b s t) (hne : t.nr ≠ s.nr ∨ t.ek ≠ s.ek ∨ t.dk ≠ s.dk) :
    (CompletionNext s ∧ ∃ keybits mode, decode s.cur = .command (.setupKey keybits mode)) ∨ ResetNext s := by
  cases h with
  | completeSetup e keybits mode hc hd => exact .inl ⟨hc, keybits, mode, hd⟩
  | reset e hr => exact .inr hr
  | _ => simp at hne

theorem doutW_changes (h : StepEffect b s t) (hne : t.doutW ≠ s.doutW) :
    (CompletionNext s ∧ (decode s.cur = .command .encrypt ∨ decode s.cur = .command .decrypt)) ∨ ResetNext s := by
  cases h with
  | completeEncrypt e hc hd => exact .inl ⟨hc, .inl hd⟩
  | completeDecrypt e hc hd => exact .inl ⟨hc, .inr hd⟩
  | reset e hr => exact .inr hr
  | _ => exact absurd rfl hne

theorem err_or_cur_changes (h : StepEffect b s t) (hne : t.err ≠ s.err ∨ t.cur ≠ s.cur) :
    (∃ v, WriteNext s .cmd v) ∨ ResetNext s := by
  cases h with
  | reject e r cause v hw => exact .inl ⟨v, hw⟩
  | acceptSetup e r v keybits mode hw => exact .inl ⟨v, hw⟩
  | accept e r v i hw => exact .inl ⟨v, hw⟩
  | reset e hr => exact .inr hr
  | _ => simp at hne

theorem busy_rises (h : StepEffect b s t) (ht : t.busy = true) (hs : s.busy = false) :
    ∃ v, WriteNext s .cmd v ∧ t.cur = v ∧ t.err = 0 ∧ t.done = false := by
  have hne : t.busy ≠ s.busy := by simp [ht, hs]
  cases h with
  | acceptSetup e r v keybits mode hw _ _ hd => exact ⟨v, hw, encode_of_decodeWord hd, rfl, rfl⟩
  | accept e r v i hw _ _ hd => exact ⟨v, hw, encode_of_decodeWord hd, rfl, rfl⟩
  | reset => cases ht
  | completeSetup => cases ht
  | completeEncrypt => cases ht
  | completeDecrypt => cases ht
  | _ => exact absurd rfl hne

theorem busy_falls (h : StepEffect b s t) (ht : t.busy = false) (hs : s.busy = true) :
    CompletionNext s ∧ t.done = true ∨ ResetNext s := by
  have hne : t.busy ≠ s.busy := by simp [ht, hs]
  cases h with
  | completeSetup e keybits mode hc => exact .inl ⟨hc, rfl⟩
  | completeEncrypt e hc => exact .inl ⟨hc, rfl⟩
  | completeDecrypt e hc => exact .inl ⟨hc, rfl⟩
  | reset e hr => exact .inr hr
  | acceptSetup => cases ht
  | accept => cases ht
  | _ => exact absurd rfl hne

theorem done_rises (h : StepEffect b s t) (ht : t.done = true) (hs : s.done = false) : CompletionNext s := by
  have hne : t.done ≠ s.done := by simp [ht, hs]
  cases h with
  | completeSetup e keybits mode hc => exact hc
  | completeEncrypt e hc => exact hc
  | completeDecrypt e hc => exact hc
  | reset => cases ht
  | acceptSetup => cases ht
  | accept => cases ht
  | _ => exact absurd rfl hne

theorem done_falls (h : StepEffect b s t) (ht : t.done = false) (hs : s.done = true) :
    (∃ v, WriteNext s .cmd v ∧ t.busy = true) ∨ ResetNext s := by
  have hne : t.done ≠ s.done := by simp [ht, hs]
  cases h with
  | acceptSetup e r v keybits mode hw => exact .inl ⟨v, hw, rfl⟩
  | accept e r v i hw => exact .inl ⟨v, hw, rfl⟩
  | reset e hr => exact .inr hr
  | completeSetup => cases ht
  | completeEncrypt => cases ht
  | completeDecrypt => cases ht
  | _ => exact absurd rfl hne

/-- R37, R38: the three steps that may change a VALID bit, with both bits after each. -/
theorem valid_changes (h : StepEffect b s t) (hne : t.encValid ≠ s.encValid ∨ t.decValid ≠ s.decValid) :
    (CompletionNext s ∧ ∃ keybits mode, decode s.cur = .command (.setupKey keybits mode)
      ∧ t.encValid = mode.getLsbD 0 ∧ t.decValid = mode.getLsbD 1)
    ∨ (∃ v keybits mode, WriteNext s .cmd v ∧ decode v = .command (.setupKey keybits mode)
        ∧ t.busy = true ∧ t.encValid = false ∧ t.decValid = false)
    ∨ ResetNext s := by
  cases h with
  | completeSetup e keybits mode hc hd => exact .inl ⟨hc, keybits, mode, hd, rfl, rfl⟩
  | acceptSetup e r v keybits mode hw _ _ hd hl =>
    exact .inr (.inl ⟨v, keybits, mode, hw, decode_of_decodeWord hd hl, rfl, rfl, rfl⟩)
  | reset e hr => exact .inr (.inr hr)
  | _ => simp at hne

theorem encValid_rises (h : StepEffect b s t) (ht : t.encValid = true) (hs : s.encValid = false) :
    CompletionNext s ∧ ∃ keybits mode, decode s.cur = .command (.setupKey keybits mode) ∧ mode.getLsbD 0 = true := by
  have hne : t.encValid ≠ s.encValid := by simp [ht, hs]
  cases h with
  | completeSetup e keybits mode hc hd => exact ⟨hc, keybits, mode, hd, ht⟩
  | acceptSetup => cases ht
  | reset => cases ht
  | _ => exact absurd rfl hne

theorem decValid_rises (h : StepEffect b s t) (ht : t.decValid = true) (hs : s.decValid = false) :
    CompletionNext s ∧ ∃ keybits mode, decode s.cur = .command (.setupKey keybits mode) ∧ mode.getLsbD 1 = true := by
  have hne : t.decValid ≠ s.decValid := by simp [ht, hs]
  cases h with
  | completeSetup e keybits mode hc hd => exact ⟨hc, keybits, mode, hd, ht⟩
  | acceptSetup => cases ht
  | reset => cases ht
  | _ => exact absurd rfl hne

end StepEffect

/-- The step of a reset event, in every state (R370, R372). -/
theorem step_reset {s : State} {rest : List Event} (h : s.events = .reset :: rest) :
    step s = .next (resetEvent { s with events := rest }) := by
  simp [step, nextStep, h, eventStep]

theorem flags_after_reset {s t : State} (h : step s = .next t) (hr : ResetNext s) :
    t.busy = false ∧ t.done = false ∧ t.err = 0 ∧ t.cur = 0 ∧ t.encValid = false ∧ t.decValid = false := by
  obtain ⟨rest, he⟩ := List.head?_eq_some_iff.mp hr
  rw [step_reset he] at h
  cases h
  exact ⟨rfl, rfl, rfl, rfl, rfl, rfl⟩

/-- Settles O57: of everything a step can do, only a generation and a reset change READY, and only a write of the word, which
an idle block takes, and a reset change a word of KEY or DIN. -/
theorem whoWritesReadyKeyAndDin : Obligations.WhoWritesReadyKeyAndDin := by
  intro s t h
  have he := stepEffect_of_step h
  exact ⟨he.ready_changes, he.key_changes, he.din_changes⟩

/-- Settles O58: of everything a step can do, only a completion and a reset change the schedules or the output. -/
theorem whoWritesTheSchedulesAndTheOutput : Obligations.WhoWritesTheSchedulesAndTheOutput := by
  intro s t h
  have he := stepEffect_of_step h
  exact ⟨he.schedules_change, he.doutW_changes⟩

/-- Settles O59: one lemma for each flag and direction, and the state after a reset. -/
theorem whoWritesTheFlags : Obligations.WhoWritesTheFlags := by
  intro s t h
  have he := stepEffect_of_step h
  exact ⟨he.err_or_cur_changes, he.busy_rises, he.busy_falls, he.done_rises, he.done_falls, he.encValid_rises,
    he.decValid_rises, he.valid_changes, flags_after_reset h⟩

/-! ### Reset -/

/-- Settles O48: the step of a reset event is `resetEvent`, which is `State.reset` but for the events. -/
theorem resetClearsEverything : Obligations.ResetClearsEverything := by
  intro s rest h
  refine ⟨_, step_reset h, rfl, rfl, rfl, rfl, rfl, rfl, rfl, rfl, rfl, rfl, ?_, ?_, ?_⟩
  · simp [State.reset]
  · simp [State.reset]
  · simp [State.reset]

/-- Settles O51: nothing is valid, busy or stored after reset. -/
theorem invariantsHoldAtReset : Obligations.InvariantsHoldAtReset :=
  ⟨blockInv_reset, scheduleInv_reset⟩

/-! ### The frame of the commands: each clause over everything a command can do (`execIn_cases`) -/

section Frame

variable {b : Build} {i : Instr} {s t : State}

theorem execIn_keeps_inputs (h : execIn b i s = .next t) :
    t.ready = s.ready ∧ t.key = s.key ∧ t.din = s.din ∧ t.events = s.events ∧ t.reply = s.reply := by
  rcases execIn_cases h with ⟨_, _, _, _, _, rfl⟩ | ⟨_, _, rfl⟩ | ⟨_, _, rfl⟩ | ⟨_, _, rfl⟩
    | ⟨_, _, _, _, _, _, rfl⟩ | ⟨_, _, _, rfl⟩ <;> exact ⟨rfl, rfl, rfl, rfl, rfl⟩

/-- A CMD write stores no schedule and no output. -/
theorem execIn_idle_keeps_results (h : execIn b i s = .next t) (hb : s.busy = false) :
    t.ek = s.ek ∧ t.dk = s.dk ∧ t.nr = s.nr ∧ t.doutW = s.doutW := by
  rcases execIn_cases h with ⟨_, _, _, hb', _⟩ | ⟨_, hb', _⟩ | ⟨_, hb', _⟩ | ⟨_, _, rfl⟩
    | ⟨_, _, _, _, _, _, rfl⟩ | ⟨_, _, _, rfl⟩
  · simp [hb] at hb'
  · simp [hb] at hb'
  · simp [hb] at hb'
  · exact ⟨rfl, rfl, rfl, rfl⟩
  · exact ⟨rfl, rfl, rfl, rfl⟩
  · exact ⟨rfl, rfl, rfl, rfl⟩

/-- What a command does while BUSY = 1 is its completion. -/
theorem execIn_busy_cases (h : execIn b i s = .next t) (hb : s.busy = true) :
    (∃ keybits mode, i = .setupKey keybits mode ∧ t = setupKeyComplete b keybits mode s)
    ∨ (i = .encrypt ∧ t = encryptComplete b s) ∨ (i = .decrypt ∧ t = decryptComplete b s) := by
  rcases execIn_cases h with ⟨keybits, mode, hi, _, _, ht⟩ | ⟨hi, _, ht⟩ | ⟨hi, _, ht⟩ | ⟨hb', _⟩ | ⟨hb', _⟩ | ⟨hb', _⟩
  · exact .inl ⟨keybits, mode, hi, ht⟩
  · exact .inr (.inl ⟨hi, ht⟩)
  · exact .inr (.inr ⟨hi, ht⟩)
  · simp [hb] at hb'
  · simp [hb] at hb'
  · simp [hb] at hb'

theorem execIn_busy_keeps_err_cur (h : execIn b i s = .next t) (hb : s.busy = true) :
    t.err = s.err ∧ t.cur = s.cur := by
  rcases execIn_busy_cases h hb with ⟨_, _, _, rfl⟩ | ⟨_, rfl⟩ | ⟨_, rfl⟩ <;> exact ⟨rfl, rfl⟩

theorem setupKey_completion_keeps_doutW (h : execIn b i s = .next t) (hb : s.busy = true)
    (hi : ∃ keybits mode, i = .setupKey keybits mode) : t.doutW = s.doutW := by
  obtain ⟨keybits, mode, rfl⟩ := hi
  rcases execIn_busy_cases h hb with ⟨_, _, _, rfl⟩ | ⟨hi, _⟩ | ⟨hi, _⟩
  · rfl
  · cases hi
  · cases hi

theorem cipher_commands_keep_schedules (h : execIn b i s = .next t) (hi : i = .encrypt ∨ i = .decrypt) :
    t.ek = s.ek ∧ t.dk = s.dk ∧ t.nr = s.nr ∧ t.encValid = s.encValid ∧ t.decValid = s.decValid := by
  rcases execIn_cases h with ⟨_, _, rfl, _⟩ | ⟨_, _, rfl⟩ | ⟨_, _, rfl⟩ | ⟨_, _, rfl⟩ | ⟨_, _, _, _, rfl, _⟩
    | ⟨_, _, _, rfl⟩
  · simp at hi
  · exact ⟨rfl, rfl, rfl, rfl, rfl⟩
  · exact ⟨rfl, rfl, rfl, rfl, rfl⟩
  · exact ⟨rfl, rfl, rfl, rfl, rfl⟩
  · simp at hi
  · exact ⟨rfl, rfl, rfl, rfl, rfl⟩

end Frame

/-- Settles O50: one lemma for each clause, at the block's build. -/
theorem frameOfTheCommands : Obligations.FrameOfTheCommands := by
  intro i s t h
  rw [exec_eq_execIn] at h
  exact ⟨execIn_keeps_inputs h, execIn_idle_keeps_results h, execIn_busy_keeps_err_cur h,
    setupKey_completion_keeps_doutW h, cipher_commands_keep_schedules h⟩

end Sys2Proof.Machine
end

section
/-! PROOFS for the statements about the register window (spec/20_memory.md): the map (R72), the window (R71), the accesses
(R73 to R81), the views (R82 to R89), and the host's accesses while a command is in progress. -/

namespace Sys2Proof.Machine

/-! ### The map: the array of registers an offset lies in, and the offsets that lie in none -/

section Map

variable {base n off : Nat}

theorem arrayIndex_element (base : Nat) (i : Fin n) : arrayIndex base n (base + 4 * i.val) = some i := by
  have hi := i.isLt
  simp [arrayIndex, hi]

theorem arrayIndex_of_ge (h : base + 4 * n ≤ off) : arrayIndex base n off = none :=
  dif_neg (by omega)

theorem arrayIndex_eq_none_iff : arrayIndex base n off = none ↔ off < base ∨ base + 4 * n ≤ off := by
  simp only [arrayIndex, dite_eq_right_iff, reduceCtorEq, imp_false]
  omega

end Map

/-- R72: a register is found at its offset. The arrays that come before it in the table end at or below that offset. -/
theorem registerAt_of_registerOffset {r : Register} {off : Nat} (h : registerOffset r = some off) : registerAt off = r := by
  cases r <;> cases h <;> simp (disch := omega) [registerAt, if_neg, arrayIndex_of_ge, arrayIndex_element]

theorem registerOffset_aligned {r : Register} {off : Nat} (h : registerOffset r = some off) :
    off % 4 = 0 ∧ off < 0x1000 := by
  cases r <;> cases h <;> omega

/-- The offsets of no register: those the three single registers and the nine arrays leave. Every branch of the map but the
last gives a register. -/
theorem registerAt_eq_reserved_iff (off : Nat) : registerAt off = .reserved ↔
    (off ≠ 0x000 ∧ off ≠ 0x004 ∧ off ≠ 0x008) ∧ arrayIndex 0x020 8 off = none ∧ arrayIndex 0x040 4 off = none
    ∧ arrayIndex 0x050 4 off = none ∧ arrayIndex 0x100 60 off = none ∧ arrayIndex 0x200 60 off = none
    ∧ arrayIndex 0x300 32 off = none ∧ arrayIndex 0x400 256 off = none ∧ arrayIndex 0x800 256 off = none
    ∧ arrayIndex 0xC00 256 off = none := by
  unfold registerAt
  repeat' split
  all_goals simp_all [Option.eq_none_iff_forall_ne_some]

/-- Settles O33: each register lies at its offset, and an aligned offset outside all of the table's rows lies in a gap. -/
theorem registerMap : Obligations.RegisterMap := by
  refine ⟨fun r off h => ⟨registerAt_of_registerOffset h, registerOffset_aligned h⟩, fun off hlt hal => ?_⟩
  simp only [registerAt_eq_reserved_iff, arrayIndex_eq_none_iff]
  omega

/-! ### The window of host addresses -/

theorem windowOffsetFrom_add (base : Nat) (off : BitVec 12) : windowOffsetFrom base (base + off.toNat) = some off := by
  have hoff := off.isLt
  rw [windowOffsetFrom, if_pos (by omega), Nat.add_sub_cancel_left, BitVec.ofNat_toNat, BitVec.setWidth_eq]

theorem eq_add_of_windowOffsetFrom {base A : Nat} {off : BitVec 12} (h : windowOffsetFrom base A = some off) :
    A = base + off.toNat := by
  unfold windowOffsetFrom at h
  split at h
  · cases h
    rw [BitVec.toNat_ofNat]
    omega
  · cases h

/-- Settles O34: an address is reached at its distance from BASE_ADDR, which is a whole number of pages. -/
theorem windowOfHostAddresses : Obligations.WindowOfHostAddresses :=
  ⟨Nat.mul_mod_right 4096 Config.basePage, windowOffsetFrom_add Config.baseAddr, fun _ _ => eq_add_of_windowOffsetFrom⟩

/-! ### Accesses: what a read and a write do, each said once -/

theorem accessOk_eq_decide (off : BitVec 12) (bytes : Nat) :
    accessOk off bytes = decide (bytes = 4 ∧ off.toNat % 4 = 0) := by
  have hlow : off.extractLsb' 0 2 = 0 ↔ off.toNat % 4 = 0 := by
    simp [← BitVec.toNat_inj]
  simp [accessOk, ← hlow, Bool.beq_eq_decide_eq]

theorem accessOk_of_aligned {off : BitVec 12} (h : off.toNat % 4 = 0) : accessOk off 4 = true := by
  simp [accessOk_eq_decide, h]

theorem accessOk_eq_false {off : BitVec 12} {bytes : Nat} (h : bytes ≠ 4 ∨ off.toNat % 4 ≠ 0) :
    accessOk off bytes = false := by
  rw [accessOk_eq_decide]
  exact decide_eq_false (by omega)

/-- No register shows the model's own two fields. -/
@[simp] theorem readRegister_events_reply (b : Build) (s : State) (e : List Event) (a : Option Reply) (r : Register) :
    readRegister b { s with events := e, reply := a } r = readRegister b s r := by
  cases r <;> rfl

section Accesses

variable {b : Build} {run : Instr → State → Result} {s : State} {off : BitVec 12} {bytes : Nat} {v : Word}
  {r : Register} {rest : List Event}

theorem memRead_of_ok (h : accessOk off bytes = true) :
    memRead b off bytes s = ⟨false, readRegister b s (registerAt off.toNat)⟩ := by
  simp [memRead, h, readReply]

theorem memRead_of_not_ok (h : accessOk off bytes = false) : memRead b off bytes s = ⟨true, 0⟩ := by
  simp [memRead, h, busError]

theorem memWrite_of_ok (h : accessOk off bytes = true) :
    memWrite run off bytes v s = writeRegister run v (answer writeReply s) (registerAt off.toNat) := by
  simp [memWrite, h]

theorem memWrite_of_not_ok (h : accessOk off bytes = false) :
    memWrite run off bytes v s = .next (answer busError s) := by
  simp [memWrite, h]

/-- R77, R78: CMD, KEY and DIN are the registers a write may have an effect on. -/
theorem writeRegister_read_only (hc : r ≠ .cmd) (hk : ∀ j, r ≠ .key j) (hd : ∀ c, r ≠ .din c) :
    writeRegister run v s r = .next s := by
  cases r with
  | cmd => exact absurd rfl hc
  | key j => exact absurd rfl (hk j)
  | din c => exact absurd rfl (hd c)
  | _ => rfl

/-- The step of a host read: only the answer of the bus is new (R79, R80). -/
theorem step_read (h : s.events = .read off bytes :: rest) :
    step s = .next { s with events := rest, reply := some (memRead Config.build off bytes s) } := by
  have hread : memRead Config.build off bytes { s with events := rest } = memRead Config.build off bytes s := by
    simp only [memRead, readRegister_events_reply Config.build s rest s.reply]
  rw [← hread]
  simp only [step, nextStep, h, eventStep, answer]

/-- The step of a host write (R81). -/
theorem step_write (h : s.events = .write off bytes v :: rest) :
    step s = memWrite exec off bytes v { s with events := rest } := by
  simp only [step, nextStep, h, eventStep]

/-- An aligned 4-byte read is answered with the value of the register at its offset. -/
theorem step_read_aligned (h : s.events = .read off 4 :: rest) (ho : off.toNat % 4 = 0) :
    step s = .next
      { s with events := rest, reply := some ⟨false, readRegister Config.build s (registerAt off.toNat)⟩ } := by
  rw [step_read h, memRead_of_ok (accessOk_of_aligned ho)]

theorem step_read_register (h : s.events = .read off 4 :: rest) (hr : registerOffset r = some off.toNat) :
    step s = .next { s with events := rest, reply := some ⟨false, readRegister Config.build s r⟩ } := by
  rw [step_read_aligned h (registerOffset_aligned hr).1, registerAt_of_registerOffset hr]

/-- An aligned 4-byte write is answered without an error and acts on the register at its offset. -/
theorem step_write_aligned (h : s.events = .write off 4 v :: rest) (ho : off.toNat % 4 = 0) :
    step s = writeRegister exec v { s with events := rest, reply := some ⟨false, 0⟩ } (registerAt off.toNat) := by
  rw [step_write h, memWrite_of_ok (accessOk_of_aligned ho)]
  rfl

theorem step_write_register (h : s.events = .write off 4 v :: rest) (hr : registerOffset r = some off.toNat) :
    step s = writeRegister exec v { s with events := rest, reply := some ⟨false, 0⟩ } r := by
  rw [step_write_aligned h (registerOffset_aligned hr).1, registerAt_of_registerOffset hr]

theorem step_write_read_only (h : s.events = .write off 4 v :: rest) (ho : off.toNat % 4 = 0)
    (hc : registerAt off.toNat ≠ .cmd) (hk : ∀ j, registerAt off.toNat ≠ .key j)
    (hd : ∀ c, registerAt off.toNat ≠ .din c) :
    step s = .next { s with events := rest, reply := some ⟨false, 0⟩ } := by
  rw [step_write_aligned h ho, writeRegister_read_only hc hk hd]

/-- R74 to R76: a bus error of a read. -/
theorem step_read_bus_error (h : s.events = .read off bytes :: rest) (hn : bytes ≠ 4 ∨ off.toNat % 4 ≠ 0) :
    step s = .next { s with events := rest, reply := some ⟨true, 0⟩ } := by
  rw [step_read h, memRead_of_not_ok (accessOk_eq_false hn)]

/-- R74 to R76: a bus error of a write. -/
theorem step_write_bus_error (h : s.events = .write off bytes v :: rest) (hn : bytes ≠ 4 ∨ off.toNat % 4 ≠ 0) :
    step s = .next { s with events := rest, reply := some ⟨true, 0⟩ } := by
  rw [step_write h, memWrite_of_not_ok (accessOk_eq_false hn)]
  rfl

end Accesses

/-- Settles O35: such an access is not `accessOk`, and both kinds then end in `busError`. -/
theorem misalignedOrNarrowAccessIsABusError : Obligations.MisalignedOrNarrowAccessIsABusError :=
  fun _ _ _ _ _ hn => ⟨fun h => step_read_bus_error h hn, fun h => step_write_bus_error h hn⟩

/-- Settles O36: a read answers the register at its offset, whose value does not depend on the events and the answer, the only
fields a read changes. -/
theorem readsHaveNoSideEffect : Obligations.ReadsHaveNoSideEffect := by
  refine ⟨fun s off rest h ho => ⟨step_read_aligned h ho, fun t ht => ?_⟩, fun s off rest h => ?_⟩
  · rw [step_read_aligned h ho] at ht
    cases ht
    rw [step_read_aligned rfl ho]
    simp only [readRegister_events_reply]
  · have read {r : Register} (hr : registerOffset r = some off.toNat) := step_read_register h hr
    exact ⟨fun ho => read (r := .cmd) (congrArg some ho.symm),
      fun j ho => read (r := .key j) (congrArg some ho.symm),
      fun c ho => read (r := .din c) (congrArg some ho.symm),
      fun c ho => read (r := .dout c) (congrArg some ho.symm),
      fun i ho => read (r := .encRk i) (congrArg some ho.symm),
      fun i ho => read (r := .decRk i) (congrArg some ho.symm)⟩

/-! ### Writes -/

theorem writeKey_eq (j : Fin 8) (v : Word) (s : State) :
    writeKey j v s = { s with key := if s.busy then s.key else s.key.set j v } := by
  unfold writeKey
  split_ifs <;> rfl

theorem writeDin_eq (c : Fin 4) (v : Word) (s : State) :
    writeDin c v s = { s with din := if s.busy then s.din else s.din.set c v } := by
  unfold writeDin
  split_ifs <;> rfl

theorem step_write_key {s : State} {off : BitVec 12} {v : Word} {rest : List Event} {j : Fin 8}
    (h : s.events = .write off 4 v :: rest) (ho : off.toNat = 0x020 + 4 * j.val) :
    step s = .next
      { s with key := if s.busy then s.key else s.key.set j v, events := rest, reply := some ⟨false, 0⟩ } := by
  rw [step_write_register (r := .key j) h (congrArg some ho.symm), writeRegister, writeKey_eq]

theorem step_write_din {s : State} {off : BitVec 12} {v : Word} {rest : List Event} {c : Fin 4}
    (h : s.events = .write off 4 v :: rest) (ho : off.toNat = 0x040 + 4 * c.val) :
    step s = .next
      { s with din := if s.busy then s.din else s.din.set c v, events := rest, reply := some ⟨false, 0⟩ } := by
  rw [step_write_register (r := .din c) h (congrArg some ho.symm), writeRegister, writeDin_eq]

/-- Settles O39: the write acts on the register at its offset, and a word set is the word read. -/
theorem keyAndDinWrites : Obligations.KeyAndDinWrites := by
  intro s off v rest h
  refine ⟨fun j ho => ⟨step_write_key h ho, fun t ht hb => ?_⟩, fun c ho => ⟨step_write_din h ho, fun t ht hb => ?_⟩⟩
  · rw [step_write_key h ho] at ht
    cases ht
    simp [readRegister, hb]
  · rw [step_write_din h ho] at ht
    cases ht
    simp [readRegister, hb]

/-- Settles O40: the write does nothing but be answered. -/
theorem writesToReadOnlyRegistersAreIgnored : Obligations.WritesToReadOnlyRegistersAreIgnored :=
  fun _ _ _ _ h ho hc hk hd => ⟨⟨false, 0⟩, step_write_read_only h ho hc hk hd, rfl⟩

/-- Settles O41: an access of a wrong form is a bus error; an aligned 4-byte one reads the reserved register, which is 0, or
writes a register that is neither CMD nor KEY nor DIN. -/
theorem reservedOffsetsReadZero : Obligations.ReservedOffsetsReadZero := by
  intro s off bytes v rest hres
  by_cases hn : bytes ≠ 4 ∨ off.toNat % 4 ≠ 0
  · rw [decide_eq_true hn]
    exact ⟨fun h => step_read_bus_error h hn, fun h => ⟨⟨true, 0⟩, step_write_bus_error h hn, rfl, fun _ => rfl⟩⟩
  · obtain ⟨rfl, ho⟩ : bytes = 4 ∧ off.toNat % 4 = 0 := by omega
    rw [decide_eq_false hn]
    refine ⟨fun h => ?_, fun h => ⟨⟨false, 0⟩, ?_, rfl, fun _ => rfl⟩⟩
    · rw [step_read_aligned h ho, hres]
      rfl
    · exact step_write_read_only h ho (by simp [hres]) (by simp [hres]) (by simp [hres])

/-! ### Host accesses while a command is in progress -/

section Busy

variable {s : State} (hr : s.ready = true) (hb : s.busy = true)
include hr hb

theorem commandWrite_of_busy (run : Instr → State → Result) (v : Word) :
    commandWrite run v s = .next (reject .busy s) := by
  simp [commandWrite, hr, hb]

/-- A write to any register is dropped, or, to CMD, rejected with BUSY (R81, R333, R376). -/
theorem writeRegister_of_busy (run : Instr → State → Result) (v : Word) (r : Register) :
    writeRegister run v s r = .next (reject .busy s) ∨ writeRegister run v s r = .next s := by
  cases r with
  | cmd => exact .inl (commandWrite_of_busy hr hb run v)
  | key j => exact .inr (by simp [writeRegister, writeKey, hb])
  | din c => exact .inr (by simp [writeRegister, writeDin, hb])
  | _ => exact .inr rfl

/-- One host access, whatever its offset, width and value, leaves everything but ERR and the bus's answer. -/
theorem step_hostAccess_of_busy {e : Event} (he : isHostAccess e = true) (rest : List Event) :
    ∃ err a, (err = s.err ∨ err = 4) ∧
      step { s with events := e :: rest } = .next { s with err := err, events := rest, reply := a } := by
  cases e with
  | read off bytes => exact ⟨s.err, _, .inl rfl, step_read rfl⟩
  | write off bytes v =>
    rw [step_write rfl]
    cases ha : accessOk off bytes with
    | false => exact ⟨s.err, _, .inl rfl, memWrite_of_not_ok ha⟩
    | true =>
      rw [memWrite_of_ok ha]
      rcases writeRegister_of_busy (s := answer writeReply { s with events := rest }) hr hb exec v
        (registerAt off.toNat) with hw | hw
      · exact ⟨4, _, .inr rfl, hw⟩
      · exact ⟨s.err, _, .inl rfl, hw⟩
  | generate => cases he
  | complete => cases he
  | reset => cases he

end Busy

/-- A sequence of host accesses, by induction on it: one access leaves the block ready and busy, so the next is dropped too. -/
theorem run_hostAccesses_of_busy {s : State} (hr : s.ready = true) (hb : s.busy = true) (rest : List Event)
    {es : List Event} (hes : ∀ e ∈ es, isHostAccess e = true) :
    ∃ err a, (err = s.err ∨ err = 4) ∧
      Sys2Proof.core.run es.length { s with events := es ++ rest }
        = .next { s with err := err, events := rest, reply := a } := by
  induction es generalizing s with
  | nil => exact ⟨s.err, s.reply, .inl rfl, rfl⟩
  | cons e es ih =>
    obtain ⟨err₁, a₁, herr₁, hstep⟩ := step_hostAccess_of_busy hr hb (hes e List.mem_cons_self) (es ++ rest)
    obtain ⟨err, a, herr, hrun⟩ := ih (s := { s with err := err₁, reply := a₁ }) hr hb
      fun e' he' => hes e' (List.mem_cons_of_mem e he')
    refine ⟨err, a, ?_, (core_run_next hstep).trans hrun⟩
    rcases herr with rfl | rfl
    · exact herr₁
    · exact .inr rfl

/-- Settles O56: no access of the sequence does anything but answer and, to CMD, set ERR to BUSY. -/
theorem hostAccessesWhileBusyAreDropped : Obligations.HostAccessesWhileBusyAreDropped := by
  intro s es rest hr hb hes
  obtain ⟨err, a, herr, hrun⟩ := run_hostAccesses_of_busy hr hb rest hes
  exact ⟨_, hrun, rfl, herr⟩

/-! ### STATUS and PARAMS -/

/-- R82: the fields of STATUS do not overlap, so each bit is a bit of one of them, or 0. -/
theorem getLsbD_statusValue (s : State) (i : Nat) : (statusValue s).getLsbD i =
    (i == 0 && s.ready || i == 1 && s.busy || i == 2 && s.done || i == 3 && s.encValid || i == 4 && s.decValid
      || decide (8 ≤ i) && s.err.getLsbD (i - 8) || decide (16 ≤ i) && s.nr.getLsbD (i - 16)) := by
  simp only [statusValue, flagWord_eq, BitVec.getLsbD_or, BitVec.getLsbD_shiftLeft, BitVec.getLsbD_setWidth,
    BitVec.getLsbD_ofBool]
  grind

theorem statusValue_flags (s : State) :
    (statusValue s).getLsbD 0 = s.ready ∧ (statusValue s).getLsbD 1 = s.busy ∧ (statusValue s).getLsbD 2 = s.done
    ∧ (statusValue s).getLsbD 3 = s.encValid ∧ (statusValue s).getLsbD 4 = s.decValid := by
  refine ⟨?_, ?_, ?_, ?_, ?_⟩ <;>
  · rw [getLsbD_statusValue]
    simp

theorem statusValue_err (s : State) : (statusValue s).extractLsb' 8 4 = s.err := by
  ext i hi
  simp only [BitVec.getElem_extractLsb', getLsbD_statusValue]
  grind

theorem statusValue_nr (s : State) : (statusValue s).extractLsb' 16 4 = s.nr := by
  ext i hi
  simp only [BitVec.getElem_extractLsb', getLsbD_statusValue]
  grind

/-- The bits between and above the fields are 0. -/
theorem statusValue_unused (s : State) : (statusValue s).extractLsb' 5 3 = 0 ∧ (statusValue s).extractLsb' 12 4 = 0
    ∧ (statusValue s).extractLsb' 20 12 = 0 := by
  refine ⟨?_, ?_, ?_⟩ <;>
  · ext i hi
    simp only [BitVec.getElem_extractLsb', getLsbD_statusValue]
    grind

/-- A completed SETUP_KEY 128, both, leaves DONE, both VALID bits and NR = 10 to be read. -/
theorem statusValue_setupKeyComplete_128_both {s : State} (b : Build) (hr : s.ready = true) (he : s.err = 0) :
    statusValue (setupKeyComplete b 128 3 s) = 0x000A001D := by
  simp [statusValue, hr, he, flagWord, modeEncrypts, modeDecrypts, nkOf, nrOf]

/-- Settles O37: the fields of STATUS, and the state after reset, after TABLE_GEN and after the completion. -/
theorem statusBits : Obligations.StatusBits := by
  refine ⟨fun b s => ⟨rfl, rfl⟩, fun s => ?_, rfl, rfl, fun s t hr hb he h => ?_⟩
  · obtain ⟨hready, hbusy, hdone, henc, hdec⟩ := statusValue_flags s
    obtain ⟨hlow, hmid, hhigh⟩ := statusValue_unused s
    exact ⟨hready, hbusy, hdone, henc, hdec, hlow, statusValue_err s, hmid, statusValue_nr s, hhigh⟩
  · rw [exec_eq_execIn] at h
    rcases execIn_busy_cases h hb with ⟨keybits, mode, hi, rfl⟩ | ⟨hi, _⟩ | ⟨hi, _⟩
    · cases hi
      exact statusValue_setupKeyComplete_128_both Config.build hr he
    · cases hi
    · cases hi

/-- Settles O38: the two orders have two values each. -/
theorem paramsBits : Obligations.ParamsBits := by
  rintro ⟨i, e⟩ s
  refine ⟨rfl, rfl, ?_⟩
  cases i <;> cases e <;> decide

/-! ### The views of the schedules and the tables -/

/-- R302, R86: byte r of a word in bus form is its lane r. -/
theorem unpack_marshalOut (b : Build) (W : Word) (r : Fin 4) :
    unpack b.external (marshalOut b W) r = lane b.internal W r := by
  obtain ⟨i, e⟩ := b
  rw [unpack_eq_lane]
  cases i <;> cases e <;> simp [marshalOut, lane_bswap32, lane_be_eq]

@[simp] theorem marshalOut_zero (b : Build) : marshalOut b 0 = 0 := by
  apply word_ext b.external
  intro r
  rw [← unpack_eq_lane, unpack_marshalOut, unpack_eq_lane, lane_zero, lane_zero]

/-- Settles O42: the views are `marshalOut` of the schedule words, which are 0 past the schedule by (f) of R50. -/
theorem scheduleViews : Obligations.ScheduleViews := by
  refine ⟨fun b s i r => ⟨unpack_marshalOut b _ r, unpack_marshalOut b _ r⟩, fun b s i hs hi => ?_⟩
  obtain ⟨hek, hdk⟩ := hs.unused_zero i hi
  simp only [readRegister, hek, hdk, marshalOut_zero, and_self]

theorem whenReady_of_not_ready {s : State} (h : s.ready = false) (v : Word) : whenReady s v = 0 := by
  simp [whenReady, h]

theorem whenReady_of_ready {s : State} (h : s.ready = true) (v : Word) : whenReady s v = v := by
  simp [whenReady, h]

/-- R88: the bytes of a GFTBL word are its lanes from the low byte up, whatever the block's orders. -/
theorem gftblWord_eq_mkword (i : Fin 256) : gftblWord i =
    mkword .le (sbox (BitVec.ofNat 8 i.val)) (invSbox (BitVec.ofNat 8 i.val)) (pow i.val)
      (log (BitVec.ofNat 8 i.val)) := rfl

theorem extractLsb'_gftblWord (i : Fin 256) :
    (gftblWord i).extractLsb' 0 8 = sbox (BitVec.ofNat 8 i.val)
    ∧ (gftblWord i).extractLsb' 8 8 = invSbox (BitVec.ofNat 8 i.val)
    ∧ (gftblWord i).extractLsb' 16 8 = pow i.val
    ∧ (gftblWord i).extractLsb' 24 8 = log (BitVec.ofNat 8 i.val) := by
  rw [gftblWord_eq_mkword]
  exact ⟨lane_mkword_zero .le _ _ _ _, lane_mkword_one .le _ _ _ _, lane_mkword_two .le _ _ _ _,
    lane_mkword_three .le _ _ _ _⟩

/-- Settles O43: before READY the views are masked; after it they are the table words, FT0 and RT0 through `marshalOut`. -/
theorem tableViews : Obligations.TableViews := by
  refine ⟨fun b s h j i => ?_, fun b s h j i r => ?_⟩
  · simp only [readRegister, whenReady_of_not_ready h, and_self]
  · simp only [readRegister, whenReady_of_ready h, unpack_marshalOut, and_true]
    exact ⟨BitVec.toNat_setWidth_of_le (by decide), extractLsb'_gftblWord i⟩

end Sys2Proof.Machine
end

section
/-! PROOFS for the statements about the encoding (spec/30_encoding.md): the word of a SETUP_KEY as a number (R120), decode after
encode and back (R111 to R116), R116's decoder by the fields of the word, and the eleven legal words (R119). -/

namespace Sys2Proof

/-! ### The word of a SETUP_KEY, as a number and by its fields -/

section SetupKeyWord

variable (keybits : BitVec 9) (mode : BitVec 2)

/-- R120: the fields of a SETUP_KEY word do not overlap, so its value is their sum. -/
theorem encode_setupKey_toNat :
    (encode (.setupKey keybits mode)).toNat = keybits.toNat * 256 + mode.toNat * 16 + 1 := by
  have hm := mode.isLt
  simp only [encode, BitVec.toNat_append, BitVec.toNat_ofNat]
  rw [← Nat.shiftLeft_add_eq_or_of_lt (by omega), ← Nat.shiftLeft_add_eq_or_of_lt (by omega),
    ← Nat.shiftLeft_add_eq_or_of_lt (by omega), ← Nat.shiftLeft_add_eq_or_of_lt (by omega)]
  simp only [Nat.shiftLeft_eq]
  omega

/-- R120: the assembler's shifts lose no bit, and the shifted fields do not overlap, so its word has the same value. -/
theorem asmSetupKey_toNat :
    (Machine.asmSetupKey keybits mode).toNat = keybits.toNat * 256 + mode.toNat * 16 + 1 := by
  have hk := keybits.isLt
  have hm := mode.isLt
  have hshift : (Machine.asmSetupKey keybits mode).toNat = keybits.toNat <<< 8 ||| (mode.toNat <<< 4 ||| 1) := by
    simp only [Machine.asmSetupKey, BitVec.toNat_or, BitVec.toNat_shiftLeft, BitVec.toNat_setWidth, Nat.shiftLeft_eq,
      Nat.or_assoc]
    rw [Nat.mod_eq_of_lt (a := keybits.toNat) (by omega), Nat.mod_eq_of_lt (a := mode.toNat) (by omega),
      Nat.mod_eq_of_lt (by omega), Nat.mod_eq_of_lt (by omega)]
    rfl
  rw [hshift, ← Nat.shiftLeft_add_eq_or_of_lt (b := 1) (by decide), ← Nat.shiftLeft_add_eq_or_of_lt (by omega)]
  simp only [Nat.shiftLeft_eq]
  omega

/-- R111: the fields the decoder reads from a SETUP_KEY word are those the encoder wrote, each a digit of the word's value. -/
theorem fields_encode_setupKey :
    opField (encode (.setupKey keybits mode)) = 1
    ∧ modeField (encode (.setupKey keybits mode)) = mode
    ∧ reservedLow (encode (.setupKey keybits mode)) = 0
    ∧ keybitsField (encode (.setupKey keybits mode)) = keybits
    ∧ reservedHigh (encode (.setupKey keybits mode)) = 0 := by
  have hk := keybits.isLt
  have hm := mode.isLt
  simp only [← BitVec.toNat_inj, opField_toNat, modeField_toNat, reservedLow_toNat, keybitsField_toNat,
    reservedHigh_toNat, encode_setupKey_toNat, BitVec.ofNat_eq_ofNat, BitVec.toNat_ofNat]
  omega

end SetupKeyWord

/-- Settles O5: the two words of a SETUP_KEY have the same value. -/
theorem assemblerPlacesTheFields : Obligations.AssemblerPlacesTheFields :=
  ⟨fun keybits mode => BitVec.eq_of_toNat_eq
      ((asmSetupKey_toNat keybits mode).trans (encode_setupKey_toNat keybits mode).symm),
    encode_setupKey_toNat, by decide, by decide⟩

/-! ### Decode after encode, and encode after decode -/

theorem decodeWord_encode (i : Instr) : decodeWord (encode i) = some i := by
  cases i with
  | setupKey keybits mode =>
    obtain ⟨hop, hmode, hlow, hkey, hhigh⟩ := fields_encode_setupKey keybits mode
    simp [decodeWord, hop, hmode, hlow, hkey, hhigh]
  | encrypt => decide
  | decrypt => decide

/-- One word for each command, and one command for each word that has a command's form. -/
theorem decodeWord_eq_some_iff {v : Word} {i : Instr} : decodeWord v = some i ↔ encode i = v := by
  constructor
  · exact encode_of_decodeWord
  · rintro rfl
    exact decodeWord_encode i

section Outcomes

variable {v : Word} {i : Instr}

theorem decode_eq_illegal_iff : decode v = .illegal ↔ decodeWord v = none := by
  cases hd : decodeWord v with
  | none => simp [decode, hd]
  | some j => cases hl : operandsLegal j <;> simp [decode, hd, hl]

theorem decode_eq_invalid_iff : decode v = .invalid ↔ ∃ i, decodeWord v = some i ∧ operandsLegal i = false := by
  cases hd : decodeWord v with
  | none => simp [decode, hd]
  | some j => cases hl : operandsLegal j <;> simp [decode, hd, hl]

theorem decode_eq_command_iff : decode v = .command i ↔ decodeWord v = some i ∧ operandsLegal i = true := by
  constructor
  · intro h
    have hl := operandsLegal_of_decode h
    cases hd : decodeWord v with
    | none => simp [decode, hd] at h
    | some j => cases hj : operandsLegal j <;> simp_all [decode]
  · rintro ⟨hd, hl⟩
    exact decode_of_decodeWord hd hl

/-- The words `decode` accepts are those of the well-formed commands. -/
theorem decode_eq_command_iff_wellFormed : decode v = .command i ↔ WellFormed i = true ∧ encode i = v := by
  rw [decode_eq_command_iff, decodeWord_eq_some_iff, operandsLegal_eq, and_comm]

end Outcomes

/-- Settles O1: the form of a word and the encoder are inverse, and `decode` adds the operand check to the form. -/
theorem decodeAndEncodeAgree : Obligations.DecodeAndEncodeAgree :=
  ⟨decodeWord_encode, fun _ _ => encode_of_decodeWord, fun _ hw => decode_eq_command_iff_wellFormed.mpr ⟨hw, rfl⟩,
    fun _ _ => decode_eq_command_iff_wellFormed.mp⟩

/-! ### The decoder by the fields, and the rejections -/

theorem setupKeyLegal_eq_false_iff {keybits : BitVec 9} {mode : BitVec 2} :
    setupKeyLegal keybits mode = false ↔ mode.toNat = 0 ∨ keybits.toNat ∉ [128, 192, 256] := by
  simp [setupKeyLegal, ← BitVec.toNat_inj, and_assoc, or_iff_not_imp_left]

theorem keybitsField_eq_ofNat (v : Word) : keybitsField v = BitVec.ofNat 9 (v.toNat / 256 % 512) := by
  rw [← keybitsField_toNat, BitVec.ofNat_toNat, BitVec.setWidth_eq]

theorem modeField_eq_ofNat (v : Word) : modeField v = BitVec.ofNat 2 (v.toNat / 16 % 4) := by
  rw [← modeField_toNat, BitVec.ofNat_toNat, BitVec.setWidth_eq]

/-- `decode(v)` of R116 as it stands there, by the fields of the word. -/
theorem decode_eq_fields (v : Word) : decode v =
    if opField v = 1 then
      if reservedLow v ≠ 0 ∨ reservedHigh v ≠ 0 then .illegal
      else if setupKeyLegal (keybitsField v) (modeField v) = false then .invalid
      else .command (.setupKey (keybitsField v) (modeField v))
    else if opField v = 2 then
      if upperBits v ≠ 0 then .illegal else .command .encrypt
    else if opField v = 3 then
      if upperBits v ≠ 0 then .illegal else .command .decrypt
    else .illegal := by
  unfold decode decodeWord
  split_ifs <;> simp_all [operandsLegal]

end Sys2Proof

namespace Sys2Proof.Machine

section Idle

variable {s : State} {v : Word} (hr : s.ready = true) (hb : s.busy = false)

include hr hb

theorem commandWrite_of_illegal (run : Instr → State → Result) (hv : decode v = .illegal) :
    commandWrite run v s = .next (reject .illegalCmd s) := by
  simp [commandWrite, hr, hb, decode_eq_illegal_iff.mp hv]

theorem exec_setupKey_of_not_legal {keybits : BitVec 9} {mode : BitVec 2} (hl : setupKeyLegal keybits mode = false) :
    exec (.setupKey keybits mode) s = .next (reject .invalidParam s) := by
  simp [exec, execSetupKey, setupKeyIn, hr, hb, hl]

/-- Only a SETUP_KEY can be invalid, and the command itself rejects it. -/
theorem commandWrite_of_invalid (hv : decode v = .invalid) :
    commandWrite exec v s = .next (reject .invalidParam s) := by
  obtain ⟨i, hd, hl⟩ := decode_eq_invalid_iff.mp hv
  cases i with
  | setupKey keybits mode => simpa [commandWrite, hr, hb, hd] using exec_setupKey_of_not_legal hr hb hl
  | encrypt => cases hl
  | decrypt => cases hl

end Idle

/-- Settles O2: `decode_eq_fields` with each field as a number, and the two rejections. -/
theorem decoderFollowsTheFields : Obligations.DecoderFollowsTheFields := by
  refine ⟨fun v => ?_, fun v s hr hb => ⟨commandWrite_of_illegal hr hb exec, commandWrite_of_invalid hr hb⟩⟩
  rw [decode_eq_fields, ← keybitsField_eq_ofNat, ← modeField_eq_ofNat]
  simp only [setupKeyLegal_eq_false_iff, ← BitVec.toNat_inj, opField_toNat, modeField_toNat, reservedLow_toNat,
    keybitsField_toNat, reservedHigh_toNat, upperBits_toNat, ne_eq, BitVec.ofNat_eq_ofNat, BitVec.toNat_ofNat]

end Sys2Proof.Machine

namespace Sys2Proof

/-! ### The eleven legal words -/

/-- The commands of R119's table, in its order. -/
def legalCommands : List Instr :=
  [.setupKey 128 1, .setupKey 128 2, .setupKey 128 3, .setupKey 192 1, .setupKey 192 2, .setupKey 192 3,
   .setupKey 256 1, .setupKey 256 2, .setupKey 256 3, .encrypt, .decrypt]

theorem modeWellFormed_iff {mode : BitVec 2} : ModeWellFormed mode = true ↔ mode = 1 ∨ mode = 2 ∨ mode = 3 := by
  revert mode
  decide

theorem keybitsWellFormed_iff {keybits : BitVec 9} :
    KeybitsWellFormed keybits = true ↔ keybits = 128 ∨ keybits = 192 ∨ keybits = 256 := by
  simp [KeybitsWellFormed, or_assoc]

theorem mem_legalCommands_iff {i : Instr} : i ∈ legalCommands ↔ WellFormed i = true := by
  cases i with
  | setupKey keybits mode =>
    rw [WellFormed, Bool.and_eq_true, modeWellFormed_iff, keybitsWellFormed_iff]
    simp only [legalCommands, List.mem_cons, Instr.setupKey.injEq, reduceCtorEq, List.not_mem_nil, or_false]
    grind
  | encrypt => decide
  | decrypt => decide

/-- Settles O3: the table is the words of `legalCommands`, the well-formed commands. -/
theorem elevenLegalCommandWords : Obligations.ElevenLegalCommandWords := by
  refine ⟨fun v i => ?_, fun v keybits mode h => ?_⟩
  · change _ ↔ (v, i) ∈ legalCommands.map fun j => (encode j, j)
    rw [decode_eq_command_iff_wellFormed, ← mem_legalCommands_iff]
    simp
  · obtain ⟨hw, -⟩ := decode_eq_command_iff_wellFormed.mp h
    obtain ⟨hk, -⟩ := Bool.and_eq_true_iff.mp hw
    rcases keybitsWellFormed_iff.mp hk with rfl | rfl | rfl <;> decide

/-- Settles O4: ten fixed words, each decoded by evaluation. -/
theorem sampleWordsDecode : Obligations.SampleWordsDecode := by
  unfold Obligations.SampleWordsDecode
  decide

end Sys2Proof
end

section
/-! PROOFS for the statements about the field and its tables (spec/40_field_tables.md): the powers of {03} and {02} as iterates
(R142, R150), the logarithm (R143, R144), the field product (R145) and inverse (R146), the S-boxes (R147 to R149, R162), the
lanes of the round tables and of the diffusion (R151 to R164), and the generation step (R175, R176). -/

namespace Sys2Proof.Machine

/-! ### The power table and the round constants as iterates -/

/-- Multiplication by the generator {03}: the update of R142. -/
def timesThree (p : Byte) : Byte := p ^^^ xtime p

theorem powLoop_eq_iterate (p : Byte) (n : Nat) : powLoop p n = List.iterate timesThree p n := by
  induction n generalizing p with
  | zero => rfl
  | succ n ih => exact congrArg (p :: ·) (ih (timesThree p))

theorem rconLoop_eq_iterate (p : Byte) (n : Nat) : rconLoop p n = List.iterate xtime p n := by
  induction n generalizing p with
  | zero => rfl
  | succ n ih => exact congrArg (p :: ·) (ih (xtime p))

theorem pow_eq_iterate {i : Nat} (h : i < 256) : pow i = timesThree^[i] 1 := by
  rw [pow, powTable, powLoop_eq_iterate, List.getD, List.getElem?_iterate _ _ _ _ h]
  rfl

theorem rcon_eq_iterate {j : Nat} (h : j < 32) : rcon j = xtime^[j] 1 := by
  rw [rcon, rconTable, rconLoop_eq_iterate, List.getD, List.getElem?_iterate _ _ _ _ h]
  rfl

theorem pow_succ_eq_timesThree {i : Nat} (h : i < 255) : pow (i + 1) = timesThree (pow i) := by
  rw [pow_eq_iterate (by omega), pow_eq_iterate (by omega), Function.iterate_succ_apply']

theorem rcon_succ {j : Nat} (h : j < 31) : rcon (j + 1) = xtime (rcon j) := by
  rw [rcon_eq_iterate (by omega), rcon_eq_iterate (by omega), Function.iterate_succ_apply']

theorem pow_zero_eq_one : pow 0 = 1 := pow_eq_iterate (by decide)

theorem pow_255 : pow 255 = 1 := by
  rw [pow_eq _ (by decide)]
  decide

/-- Settles O11: the table is the iteration of `timesThree` from 01. -/
theorem powerTableMultipliesByThree : Obligations.PowerTableMultipliesByThree := by
  refine ⟨pow_zero_eq_one, fun _ => pow_succ_eq_timesThree, by decide, ?_, pow_255⟩
  rw [pow_eq _ (by decide)]
  decide

/-- Settles O16: the table is the iteration of `xtime` from 01, and RCONW is defined as the rule words it. -/
theorem roundConstantsDouble : Obligations.RoundConstantsDouble :=
  ⟨rcon_eq_iterate (by decide), fun _ => rcon_succ, by decide, fun _ _ => rfl⟩

/-! ### The logarithm -/

theorem log_zero : log 0 = 0 := rfl

/-- R143: each power below 255 has its exponent as its logarithm. -/
theorem log_pow {i : Nat} (h : i < 255) : (log (pow i)).toNat = i := by
  rw [pow_eq i (by omega), log_eq]
  revert i
  decide +kernel

/-- R144: every non-zero byte is the power of its logarithm. -/
theorem log_lt_and_pow_log {x : Byte} (h : x ≠ 0) : (log x).toNat < 255 ∧ pow (log x).toNat = x := by
  rw [pow_eq _ (log x).isLt, log_eq]
  revert x
  decide +kernel

theorem log_lt {x : Byte} (h : x ≠ 0) : (log x).toNat < 255 := (log_lt_and_pow_log h).1

theorem pow_log {x : Byte} (h : x ≠ 0) : pow (log x).toNat = x := (log_lt_and_pow_log h).2

theorem eq_of_pow_eq {i j : Nat} (hi : i < 255) (hj : j < 255) (h : pow i = pow j) : i = j := by
  rw [← log_pow hi, h, log_pow hj]

/-- A power that were 0 would have the logarithm of 0, and so be the power of 0, which is 1. -/
theorem pow_ne_zero_of_lt {i : Nat} (h : i < 255) : pow i ≠ 0 := by
  intro h0
  have hi : i = 0 := by rw [← log_pow h, h0, log_zero]; rfl
  rw [hi, pow_zero_eq_one] at h0
  exact absurd h0 (by decide)

/-- Settles O12: LOG and POW undo each other, which gives the permutation. -/
theorem logInvertsThePowerTable : Obligations.LogInvertsThePowerTable := by
  refine ⟨fun _ => log_pow, ?_, log_zero, fun _ => log_lt_and_pow_log, fun _ => pow_ne_zero_of_lt,
    fun _ _ => eq_of_pow_eq, ?_⟩
  all_goals
    simp only [log_eq]
    decide

/-! ### The product of polynomials is linear in its first factor -/

theorem polyMulFrom_xor (a c b : Byte) (n : Nat) :
    polyMulFrom (a ^^^ c) b n = polyMulFrom a b n ^^^ polyMulFrom c b n := by
  induction n generalizing a c with
  | zero => simp [polyMulFrom]
  | succ n ih =>
    rw [polyMulFrom, polyMulFrom, polyMulFrom, xtime_xor, ih]
    split_ifs
    · ac_rfl
    · simp

theorem polyMulFrom_xtime (a b : Byte) (n : Nat) : polyMulFrom (xtime a) b n = xtime (polyMulFrom a b n) := by
  induction n generalizing a with
  | zero => simp [polyMulFrom, xtime]
  | succ n ih =>
    rw [polyMulFrom, polyMulFrom, xtime_xor, ih]
    split_ifs <;> rfl

theorem polyMul_xtime (a b : Byte) : polyMul (xtime a) b = xtime (polyMul a b) := polyMulFrom_xtime a b 8

/-- {03} in the first factor is {03} in the product. -/
theorem polyMul_timesThree (a b : Byte) : polyMul (timesThree a) b = timesThree (polyMul a b) := by
  rw [timesThree, polyMul, polyMulFrom_xor, ← polyMul, ← polyMul, polyMul_xtime]
  rfl

theorem polyMul_iterate_timesThree (n : Nat) (a b : Byte) :
    polyMul (timesThree^[n] a) b = timesThree^[n] (polyMul a b) :=
  Function.Semiconj.iterate_right (f := (polyMul · b)) (fun a => polyMul_timesThree a b) n a

theorem polyMul_zero (b : Byte) : polyMul 0 b = 0 := by
  simpa [polyMul] using polyMulFrom_xor 0 0 b 8

/-- The unit: the sum of the `x^i` over the coefficients of b that are 1 is b itself. -/
theorem polyMul_one (b : Byte) : polyMul 1 b = b := by
  revert b
  decide +kernel

/-! ### The field product and the inverse -/

theorem gmul_comm (a b : Byte) : gmul a b = gmul b a := by
  simp only [gmul, or_comm (a := a = 0), Nat.add_comm (log a).toNat]

theorem gmul_zero_left (b : Byte) : gmul 0 b = 0 := if_pos (.inl rfl)

theorem gmul_eq_pow {a b : Byte} (ha : a ≠ 0) (hb : b ≠ 0) :
    gmul a b = pow (((log a).toNat + (log b).toNat) % 255) :=
  if_neg (not_or.mpr ⟨ha, hb⟩)

/-- {03} has order 255. -/
theorem timesThree_periodic : Function.IsPeriodicPt timesThree 255 1 :=
  (pow_eq_iterate (by decide)).symm.trans pow_255

theorem iterate_timesThree_zero (n : Nat) : timesThree^[n] 0 = 0 :=
  Function.iterate_fixed rfl n

theorem iterate_log {x : Byte} (h : x ≠ 0) : timesThree^[(log x).toNat] 1 = x := by
  rw [← pow_eq_iterate (log x).isLt, pow_log h]

/-- Multiplication by a non-zero byte is multiplication by {03} as many times as its logarithm says. -/
theorem gmul_eq_iterate {a : Byte} (ha : a ≠ 0) (b : Byte) : gmul a b = timesThree^[(log a).toNat] b := by
  by_cases hb : b = 0
  · rw [hb, gmul_comm, gmul_zero_left, iterate_timesThree_zero]
  · rw [gmul_eq_pow ha hb, pow_eq_iterate (by omega), timesThree_periodic.iterate_mod_apply,
      Function.iterate_add_apply, iterate_log hb]

/-- R145: both products by a non-zero byte are the same power of {03}, by linearity from the unit. -/
theorem gmul_eq_polyMul (a b : Byte) : gmul a b = polyMul a b := by
  by_cases ha : a = 0
  · rw [ha, gmul_zero_left, polyMul_zero]
  · calc gmul a b = timesThree^[(log a).toNat] (polyMul 1 b) := by rw [gmul_eq_iterate ha, polyMul_one]
      _ = polyMul (timesThree^[(log a).toNat] 1) b := (polyMul_iterate_timesThree _ 1 b).symm
      _ = polyMul a b := by rw [iterate_log ha]

theorem gmul_xor_left (a c b : Byte) : gmul (a ^^^ c) b = gmul a b ^^^ gmul c b := by
  simp only [gmul_eq_polyMul]
  exact polyMulFrom_xor a c b 8

theorem gmul_xor_right (a b c : Byte) : gmul a (b ^^^ c) = gmul a b ^^^ gmul a c := by
  rw [gmul_comm, gmul_xor_left, gmul_comm b, gmul_comm c]

theorem gmul_assoc (a b c : Byte) : gmul (gmul a b) c = gmul a (gmul b c) := by
  by_cases ha : a = 0
  · simp only [ha, gmul_zero_left]
  · rw [gmul_eq_iterate ha, gmul_eq_iterate ha, gmul_eq_polyMul, gmul_eq_polyMul, polyMul_iterate_timesThree]

/-- Settles O13: the laws from the definition, and `gmul_eq_polyMul`. -/
theorem fieldProductIsThePolynomialProduct : Obligations.FieldProductIsThePolynomialProduct := by
  refine ⟨fun _ _ => gmul_eq_pow, gmul_comm, gmul_one, gmul_zero_left, gmul_eq_polyMul, ?_⟩
  simp only [gmul_eq_polyMul]
  decide

theorem ginv_of_ne_zero {x : Byte} (h : x ≠ 0) : ginv x = pow (255 - (log x).toNat) := if_neg h

/-- R146: the exponents of x and of its inverse add up to the order of {03}. -/
theorem gmul_ginv {x : Byte} (h : x ≠ 0) : gmul x (ginv x) = 1 := by
  have hle : (log x).toNat ≤ 255 := (log_lt h).le
  rw [gmul_eq_iterate h, ginv_of_ne_zero h, pow_eq_iterate (by omega), ← Function.iterate_add_apply,
    Nat.add_sub_cancel' hle]
  exact timesThree_periodic

/-- Settles O14: `gmul_ginv`, and the values by the packed tables. -/
theorem everyNonzeroByteHasItsInverse : Obligations.EveryNonzeroByteHasItsInverse := by
  refine ⟨rfl, fun x h => ⟨ginv_of_ne_zero h, gmul_ginv h⟩, ?_⟩
  simp only [ginv_eq]
  decide

/-! ### Doubling -/

theorem xtime_toNat (b : Byte) :
    (xtime b).toNat = if b.toNat < 128 then 2 * b.toNat else (2 * b.toNat - 256) ^^^ 0x1B := by
  have hlt := b.isLt
  have hmsb : b.getLsbD 7 = decide (128 ≤ b.toNat) := BitVec.msb_eq_decide b
  have hshift : (b <<< 1).toNat = 2 * b.toNat % 256 := by
    rw [BitVec.toNat_shiftLeft, Nat.shiftLeft_eq, Nat.mul_comm]
  rw [xtime, BitVec.toNat_xor, hshift, hmsb]
  by_cases h : b.toNat < 128
  · rw [if_pos h, decide_eq_false (by omega), if_neg Bool.false_ne_true, show (0x00 : Byte).toNat = 0 from rfl,
      Nat.xor_zero]
    omega
  · rw [if_neg h, decide_eq_true (by omega), if_pos rfl, show 2 * b.toNat % 256 = 2 * b.toNat - 256 by omega]
    rfl

/-- {02} is the doubled unit. -/
theorem polyMul_two (b : Byte) : polyMul 0x02 b = xtime b := by
  rw [show (0x02 : Byte) = xtime 1 from rfl, polyMul_xtime, polyMul_one]

/-- Settles O10: the shift and the conditional XOR as numbers, and the product by the doubled unit. -/
theorem xtimeIsTheProductByTwo : Obligations.XtimeIsTheProductByTwo :=
  ⟨xtime_toNat, fun b => (polyMul_two b).symm, by decide⟩

/-! ### The S-boxes -/

/-- R149, R162: INVSBOX finds a place of every byte in SBOX. -/
theorem sbox_invSbox (y : Byte) : sbox (invSbox y) = y := by
  rw [sbox_eq, invSbox_eq]
  revert y
  decide +kernel

/-- SBOX takes every value, and a map of a finite set onto itself is one to one. -/
theorem sbox_injective : Function.Injective sbox :=
  Finite.injective_iff_surjective.mpr (Function.RightInverse.surjective sbox_invSbox)

theorem invSbox_sbox (x : Byte) : invSbox (sbox x) = x := sbox_injective (sbox_invSbox (sbox x))

/-- Settles O15: the two inverse laws, and the values by the packed tables. -/
theorem sboxesAreInversePermutations : Obligations.SboxesAreInversePermutations := by
  refine ⟨fun _ => rfl, invSbox_sbox, sbox_invSbox, fun _ _ h => sbox_injective h, ?_⟩
  simp only [sbox_eq, invSbox_eq]
  decide

/-! ### Lanes of the round tables, and rotations of lanes as rotations of the number -/

/-- Settles O17: the rotations and the one-byte words by their lanes. -/
theorem lanesOfTheRoundTables : Obligations.LanesOfTheRoundTables := by
  refine fun o x => ⟨rfl, rfl, fun k r => ⟨lane_rotLanes o k r _, lane_rotLanes o k r _, ?_, ?_⟩⟩
  · simp only [fs, lane_laneWord, eq_comm (a := r)]
  · simp only [rs, lane_laneWord, eq_comm (a := r)]

/-- Under BE the lanes count from the top, so they rotate the other way. -/
theorem rotLanes_be (k : Fin 4) (W : Word) : rotLanes .be k W = rotLanes .le (-k) W := by
  apply word_ext .be
  intro r
  rw [lane_rotLanes, lane_be_eq, lane_be_eq, lane_rotLanes]
  congr 1
  abel

/-- Bit i of lane r comes from k lanes below, or, for the lowest k lanes, from 4 - k lanes above. -/
theorem rotLanes_le_eq_rotate (k : Fin 4) (W : Word) :
    rotLanes .le k W = W <<< (8 * k.val) ||| W >>> (32 - 8 * k.val) := by
  apply word_ext .le
  intro r
  rw [lane_rotLanes]
  ext i hi
  have hr := r.isLt
  have hk := k.isLt
  simp only [lane, bytePos, BitVec.getElem_extractLsb', BitVec.getLsbD_or, BitVec.getLsbD_shiftLeft,
    BitVec.getLsbD_ushiftRight]
  by_cases h : k ≤ r
  · have hle : k.val ≤ r.val := h
    have hsub : 8 * (r - k).val + i = 8 * r.val + i - 8 * k.val := by rw [Fin.sub_val_of_le h]; omega
    have hlow : ¬ 8 * r.val + i < 8 * k.val := by omega
    have hbit : 8 * r.val + i < 32 := by omega
    have hhigh : W.getLsbD (32 - 8 * k.val + (8 * r.val + i)) = false := BitVec.getLsbD_of_ge _ _ (by omega)
    simp [hsub, hlow, hbit, hhigh]
  · have hlt : r.val < k.val := not_le.mp h
    have hsub : 8 * (r - k).val + i = 32 - 8 * k.val + (8 * r.val + i) := by
      rw [Fin.coe_sub_iff_lt.mpr (not_le.mp h)]; omega
    have hlow : 8 * r.val + i < 8 * k.val := by omega
    simp [hsub, hlow]

theorem rotLanes_be_eq_rotate {k : Fin 4} (hk : k ≠ 0) (W : Word) :
    rotLanes .be k W = W <<< (32 - 8 * k.val) ||| W >>> (8 * k.val) := by
  have hneg : (-k).val = 4 - k.val := by rw [Fin.val_neg, if_neg hk]
  rw [rotLanes_be, rotLanes_le_eq_rotate, hneg]
  congr 2 <;> omega

/-- Settles O18: FTk and RTk are rotations of lanes. -/
theorem rotatedTablesAsNumbers : Obligations.RotatedTablesAsNumbers :=
  fun k _ hk => ⟨rotLanes_le_eq_rotate k _, rotLanes_be_eq_rotate hk _, rotLanes_le_eq_rotate k _,
    rotLanes_be_eq_rotate hk _⟩

/-- Settles O21: RotWord rotates the lanes by 3. -/
theorem subWordAndRotWord : Obligations.SubWordAndRotWord :=
  ⟨fun _ _ => rfl, fun _ _ => rfl, fun W => ⟨rotLanes_le_eq_rotate 3 W, rotLanes_be_eq_rotate (k := 3) (by decide) W⟩⟩

/-! ### The diffusion transforms -/

theorem lane_ft (o : ByteOrder) (k : Fin 4) (x : Byte) (r : Fin 4) :
    lane o (ft o k x) r = fourOf (gmul 2 (sbox x)) (sbox x) (sbox x) (gmul 3 (sbox x)) (r - k) := by
  rw [ft, lane_rotLanes, ft0, lane_mkword]

theorem lane_rt (o : ByteOrder) (k : Fin 4) (x : Byte) (r : Fin 4) :
    lane o (rt o k x) r
      = fourOf (gmul 14 (invSbox x)) (gmul 9 (invSbox x)) (gmul 13 (invSbox x)) (gmul 11 (invSbox x)) (r - k) := by
  rw [rt, lane_rotLanes, rt0, lane_mkword]

/-- R164, forward: in each lane the four table reads are the four terms of `mixLane`, in lane 0 in its order. -/
theorem ft_fold (o : ByteOrder) (y0 y1 y2 y3 : Byte) :
    ft o 0 y0 ^^^ ft o 1 y1 ^^^ ft o 2 y2 ^^^ ft o 3 y3
      = mixColumn o (mkword o (sbox y0) (sbox y1) (sbox y2) (sbox y3)) := by
  apply word_ext o
  intro r
  simp only [lane_mixColumn, mixLane, lane_xor, lane_ft, lane_mkword]
  match r with
  | 0 => rfl
  | 1 | 2 | 3 =>
    simp only [Fin.reduceSub, Fin.reduceAdd, fourOf]
    ac_rfl

/-- R164, inverse: the same with the terms of `invMixLane`. -/
theorem rt_fold (o : ByteOrder) (y0 y1 y2 y3 : Byte) :
    rt o 0 y0 ^^^ rt o 1 y1 ^^^ rt o 2 y2 ^^^ rt o 3 y3
      = invMixColumn o (mkword o (invSbox y0) (invSbox y1) (invSbox y2) (invSbox y3)) := by
  apply word_ext o
  intro r
  simp only [lane_invMixColumn, invMixLane, lane_xor, lane_rt, lane_mkword]
  match r with
  | 0 => rfl
  | 1 | 2 | 3 =>
    simp only [Fin.reduceSub, Fin.reduceAdd, fourOf]
    ac_rfl

/-- Settles O19: both folds. -/
theorem tablesFoldTheDiffusion : Obligations.TablesFoldTheDiffusion :=
  fun o y0 y1 y2 y3 => ⟨ft_fold o y0 y1 y2 y3, rt_fold o y0 y1 y2 y3⟩

/-- The columns of the two circulants multiply to those of the identity: the coefficients of a1, a2 and a3 cancel. -/
theorem inverse_circulant (a0 a1 a2 a3 : Byte) :
    gmul 14 (gmul 2 a0 ^^^ gmul 3 a1 ^^^ a2 ^^^ a3) ^^^ gmul 11 (gmul 2 a1 ^^^ gmul 3 a2 ^^^ a3 ^^^ a0)
      ^^^ gmul 13 (gmul 2 a2 ^^^ gmul 3 a3 ^^^ a0 ^^^ a1) ^^^ gmul 9 (gmul 2 a3 ^^^ gmul 3 a0 ^^^ a1 ^^^ a2) = a0 := by
  obtain ⟨h0, h1, h2, h3⟩ : gmul 14 2 ^^^ 11 ^^^ 13 ^^^ gmul 9 3 = 1 ∧ gmul 14 3 ^^^ gmul 11 2 ^^^ 13 ^^^ 9 = 0
      ∧ 14 ^^^ gmul 11 3 ^^^ gmul 13 2 ^^^ 9 = 0 ∧ 14 ^^^ 11 ^^^ gmul 13 3 ^^^ gmul 9 2 = 0 := by
    simp only [gmul_eq_polyMul]
    decide
  calc _ = gmul (gmul 14 2 ^^^ 11 ^^^ 13 ^^^ gmul 9 3) a0 ^^^ gmul (gmul 14 3 ^^^ gmul 11 2 ^^^ 13 ^^^ 9) a1
          ^^^ gmul (14 ^^^ gmul 11 3 ^^^ gmul 13 2 ^^^ 9) a2 ^^^ gmul (14 ^^^ 11 ^^^ gmul 13 3 ^^^ gmul 9 2) a3 := by
        simp only [gmul_xor_left, gmul_xor_right, gmul_assoc]
        ac_rfl
    _ = a0 := by
        rw [h0, h1, h2, h3, gmul_one, gmul_zero_left, gmul_zero_left, gmul_zero_left]
        simp

theorem invMixLane_mixLane (a : Fin 4 → Byte) (r : Fin 4) : invMixLane (mixLane a) r = a r := by
  simp only [invMixLane, mixLane, add_assoc, Fin.reduceAdd, add_zero]
  exact inverse_circulant (a r) (a (r + 1)) (a (r + 2)) (a (r + 3))

theorem invMixColumn_mixColumn (o : ByteOrder) (W : Word) : invMixColumn o (mixColumn o W) = W := by
  apply word_ext o
  intro r
  rw [lane_invMixColumn, show lane o (mixColumn o W) = mixLane (lane o W) from funext (lane_mixColumn o W),
    invMixLane_mixLane]

/-- R161: the table form, since INVSBOX undoes SBOX. -/
theorem invMixColumn_eq_rt (o : ByteOrder) (W : Word) :
    invMixColumn o W = rt o 0 (sbox (lane o W 0)) ^^^ rt o 1 (sbox (lane o W 1))
      ^^^ rt o 2 (sbox (lane o W 2)) ^^^ rt o 3 (sbox (lane o W 3)) := by
  simp only [rt_fold, invSbox_sbox, mkword_lanes]

/-- R160: the printed column. -/
theorem mixColumn_example (o : ByteOrder) :
    mixColumn o (mkword o 0xDB 0x13 0x53 0x45) = mkword o 0x8E 0x4D 0xA1 0xBC := by
  simp only [mixColumn, mixLane, gmul_eq_polyMul]
  cases o <;> decide

/-- Settles O20: the lanes, the table form and the inverse law, which gives the second half of the example. -/
theorem inverseDiffusionUndoesDiffusion : Obligations.InverseDiffusionUndoesDiffusion := by
  refine ⟨lane_mixColumn, lane_invMixColumn, invMixColumn_eq_rt, invMixColumn_mixColumn,
    fun o => ⟨mixColumn_example o, ?_⟩⟩
  rw [← mixColumn_example, invMixColumn_mixColumn]

/-! ### The generation step -/

theorem tableGen_eq (s : State) : tableGen s = { s with ready := true } := by
  unfold tableGen
  split
  next h => rw [← h]
  next => rfl

/-- Settles O47: both ways to the step are `tableGen`. -/
theorem generationStep : Obligations.GenerationStep := by
  refine ⟨fun s rest h => ?_, fun s h hr => ?_⟩
  · simp [step, nextStep, h, eventStep, tableGen_eq]
  · simp [step, nextStep, h, coreStep, hr, tableGen_eq]

end Sys2Proof.Machine
end

section
/-! PROOFS for the statements about the key schedule (spec/41_key_schedule.md): the CMD write of SETUP_KEY (R210), the key
expansion (R200 to R206), what a completion stores (R207, R208, R211), and what that depends on (R212). -/

namespace Sys2Proof.Machine

/-! ### The CMD write of SETUP_KEY -/

theorem exec_setupKey_of_legal {keybits : BitVec 9} {mode : BitVec 2} {s : State} (hr : s.ready = true)
    (hb : s.busy = false) (hl : setupKeyLegal keybits mode = true) :
    exec (.setupKey keybits mode) s = .next (acceptSetup (encode (.setupKey keybits mode)) s) := by
  simp [exec, execSetupKey, setupKeyIn, hr, hb, hl]

/-- Settles O25: the accept, and the rejection with the operand check as numbers. -/
theorem setupKeyIsAcceptedOrRejected : Obligations.SetupKeyIsAcceptedOrRejected := by
  refine ⟨fun keybits mode s hr hb hl => exec_setupKey_of_legal hr hb hl, fun keybits mode s hr hb hbad => ?_⟩
  have hl : setupKeyLegal keybits mode = false :=
    setupKeyLegal_eq_false_iff.mpr (hbad.imp_left (congrArg BitVec.toNat))
  exact exec_setupKey_of_not_legal hr hb hl

/-! ### The key expansion -/

section Expansion

variable (b : Build) (s : State)

theorem keyWords_length {nk : Nat} (h : nk ≤ 8) : (keyWords b s nk).length = nk := by
  simpa [keyWords] using h

theorem keyWords_getD {nk : Nat} (j : Fin 8) (h : j.val < nk) :
    (keyWords b s nk).getD j.val 0 = marshalIn b s.key[j] := by
  simp [keyWords, List.getD, h]

variable {keybits : BitVec 9} (hk : nkOf keybits ≤ 8)

include hk

theorem expandedKey_length : (expandedKey b keybits s).length = scheduleLength (nrOf (nkOf keybits)) := by
  rw [expandedKey, keyExpand, expandMore_length, keyWords_length b s hk, scheduleLength, nrOf]
  omega

/-- R202: the loop keeps the initial words. -/
theorem expandedKey_getD_initial (j : Fin 8) (h : j.val < nkOf keybits) :
    (expandedKey b keybits s).getD j.val 0 = marshalIn b s.key[j] := by
  rw [expandedKey, keyExpand, expandMore_getD_old _ _ _ _ _ (by rwa [keyWords_length b s hk]), keyWords_getD b s j h]

/-- R203: every later word is one the loop added. -/
theorem expandedKey_getD_later (hpos : 0 < nkOf keybits) {i : Nat} (h1 : nkOf keybits ≤ i)
    (h2 : i < scheduleLength (nrOf (nkOf keybits))) :
    (expandedKey b keybits s).getD i 0 = (expandedKey b keybits s).getD (i - nkOf keybits) 0
      ^^^ expandTerm b.internal (nkOf keybits) i ((expandedKey b keybits s).getD (i - 1) 0) := by
  have hlen := keyWords_length b s hk
  exact expandMore_getD_new b.internal (nkOf keybits) hpos _ _ i (by omega) (by omega) (by omega)

end Expansion

/-- R206: the extra SubWord is for Nk = 8 only, so its index test is one mod 8. -/
theorem expandTerm_eq (o : ByteOrder) (nk i : Nat) (W : Word) : expandTerm o nk i W =
    if i % nk = 0 then subWord o (rotWord o W) ^^^ rconW o (i / nk - 1)
    else if nk = 8 ∧ i % 8 = 4 then subWord o W else W := by
  have h : (nk = 8 ∧ i % nk = 4) ↔ (nk = 8 ∧ i % 8 = 4) := and_congr_right fun h => by rw [h]
  simp only [expandTerm, h]

theorem nkOf_cases_of_keybits {keybits : BitVec 9} (h : KeybitsWellFormed keybits = true) :
    nkOf keybits = 4 ∨ nkOf keybits = 6 ∨ nkOf keybits = 8 :=
  nkOf_cases (mode := 1) (by simpa [setupKeyLegal, KeybitsWellFormed] using h)

/-- Settles O22: the length, and each word as an initial one or one the loop added. -/
theorem keyExpansionRecurrence : Obligations.KeyExpansionRecurrence := by
  intro b keybits s hwf
  have hnk := nkOf_cases_of_keybits hwf
  have hle : nkOf keybits ≤ 8 := by omega
  refine ⟨?_, expandedKey_getD_initial b s hle, fun i h1 h2 => ?_⟩
  · rw [expandedKey_length b s hle]
    rcases hnk with h | h | h <;> simp [h, nrOf, scheduleLength]
  · rw [← expandTerm_eq]
    exact expandedKey_getD_later b s hle (by omega) h1 h2

/-! ### The completion of SETUP_KEY -/

theorem setupKeyIn_of_busy (b : Build) {keybits : BitVec 9} {mode : BitVec 2} {s : State} (hb : s.busy = true)
    (hl : setupKeyLegal keybits mode = true) :
    setupKeyIn b keybits mode s = .next (setupKeyComplete b keybits mode s) := by
  simp [setupKeyIn, hb, hl]

/-- NR has room for each of R201's round counts. -/
theorem setupKeyComplete_nr_toNat (b : Build) {keybits : BitVec 9} {mode : BitVec 2} (s : State)
    (hl : setupKeyLegal keybits mode = true) :
    (setupKeyComplete b keybits mode s).nr.toNat = nrOf (nkOf keybits) := by
  rcases nrOf_cases hl with h | h | h <;> simp [h]

theorem ekStorage_getElem (nr : Nat) (w : List Word) (i : Fin 60) :
    (ekStorage nr w)[i] = if i.val < scheduleLength nr then w.getD i.val 0 else 0 :=
  Vector.getElem_ofFn i.isLt

theorem dkStorage_getElem (o : ByteOrder) (mode : BitVec 2) (nr : Nat) (w : List Word) (i : Fin 60) :
    (dkStorage o mode nr w)[i] = if mode.getLsbD 1 = true ∧ i.val < scheduleLength nr then dkWord o nr w i.val else 0 :=
  Vector.getElem_ofFn i.isLt

/-- Settles O23: the completion by its fields; `storeSchedules` and `finish` write no other. -/
theorem setupKeyCompletes : Obligations.SetupKeyCompletes := fun _ _ s hb hl =>
  ⟨_, setupKeyIn_of_busy Config.build hb hl, ekStorage_getElem _ _, dkStorage_getElem _ _ _ _,
    setupKeyComplete_nr_toNat Config.build s hl, rfl, rfl, rfl, rfl, rfl⟩

/-! ### What the schedules depend on: the KEY words below Nk -/

theorem keyWords_congr (b : Build) {nk : Nat} {s1 s2 : State} (h : ∀ j : Fin 8, j.val < nk → s1.key[j] = s2.key[j]) :
    keyWords b s1 nk = keyWords b s2 nk := by
  apply List.ext_getElem (by simp [keyWords])
  intro j h1 h2
  obtain ⟨hnk, h8⟩ : j < nk ∧ j < 8 := by simpa [keyWords] using h1
  simpa [keyWords] using congrArg (marshalOut b) (h ⟨j, h8⟩ hnk)

theorem expandedKey_congr (b : Build) {keybits : BitVec 9} {s1 s2 : State}
    (h : ∀ j : Fin 8, j.val < nkOf keybits → s1.key[j] = s2.key[j]) :
    expandedKey b keybits s1 = expandedKey b keybits s2 :=
  congrArg (keyExpand b.internal (nkOf keybits)) (keyWords_congr b h)

/-! ### What the schedules do not depend on: the internal order. A word under the order `o` is carried to the word with the
same lanes under the order `p`, and everything the key schedule does commutes with that. -/

/-- The word whose lanes under the order `p` are those of `W` under the order `o`. -/
def reorder (o p : ByteOrder) (W : Word) : Word := mkword p (lane o W 0) (lane o W 1) (lane o W 2) (lane o W 3)

section Reorder

variable (o p e : ByteOrder)

@[simp] theorem lane_reorder (W : Word) : lane p (reorder o p W) = lane o W := by
  funext r
  rw [reorder, lane_mkword]
  match r with
  | 0 | 1 | 2 | 3 => rfl

@[simp] theorem reorder_mkword (a0 a1 a2 a3 : Byte) : reorder o p (mkword o a0 a1 a2 a3) = mkword p a0 a1 a2 a3 := by
  simp [reorder]

@[simp] theorem reorder_xor (V W : Word) : reorder o p (V ^^^ W) = reorder o p V ^^^ reorder o p W := by
  apply word_ext p
  simp

@[simp] theorem reorder_zero : reorder o p 0 = 0 := by
  apply word_ext p
  intro r
  rw [lane_reorder, lane_zero, lane_zero]

/-- The bus form has the bytes of the lanes, so it is the same. -/
theorem marshalOut_reorder (W : Word) : marshalOut ⟨p, e⟩ (reorder o p W) = marshalOut ⟨o, e⟩ W := by
  apply word_ext e
  intro r
  calc lane e (marshalOut ⟨p, e⟩ (reorder o p W)) r
      = lane p (reorder o p W) r := unpack_marshalOut ⟨p, e⟩ _ r
    _ = lane o W r := by rw [lane_reorder]
    _ = lane e (marshalOut ⟨o, e⟩ W) r := (unpack_marshalOut ⟨o, e⟩ W r).symm

theorem lane_marshalIn (v : Word) (r : Fin 4) : lane o (marshalIn ⟨o, e⟩ v) r = lane e v r := by
  cases o <;> cases e <;> simp [marshalOut, lane_bswap32, lane_be_eq]

theorem reorder_marshalIn (v : Word) : reorder o p (marshalIn ⟨o, e⟩ v) = marshalIn ⟨p, e⟩ v := by
  apply word_ext p
  intro r
  rw [lane_reorder, lane_marshalIn, lane_marshalIn]

theorem subWord_reorder (W : Word) : subWord p (reorder o p W) = reorder o p (subWord o W) := by
  simp [subWord]

theorem rotWord_reorder (W : Word) : rotWord p (reorder o p W) = reorder o p (rotWord o W) := by
  simp [rotWord]

theorem rconW_reorder (j : Nat) : rconW p j = reorder o p (rconW o j) := by
  simp [rconW]

theorem invMixColumn_reorder (W : Word) : invMixColumn p (reorder o p W) = reorder o p (invMixColumn o W) := by
  simp [invMixColumn]

theorem getD_map_reorder (w : List Word) (i : Nat) : (w.map (reorder o p)).getD i 0 = reorder o p (w.getD i 0) := by
  conv_lhs => rw [← reorder_zero o p]
  exact List.getD_map ..

theorem expandTerm_reorder (nk i : Nat) (W : Word) :
    expandTerm p nk i (reorder o p W) = reorder o p (expandTerm o nk i W) := by
  unfold expandTerm
  split_ifs
  · rw [rotWord_reorder, subWord_reorder, rconW_reorder o p, reorder_xor]
  · exact subWord_reorder o p W
  · rfl

theorem expandMore_reorder (nk count : Nat) (w : List Word) :
    expandMore p nk (w.map (reorder o p)) count = (expandMore o nk w count).map (reorder o p) := by
  induction count generalizing w with
  | zero => rfl
  | succ count ih =>
    have hnext : expandWord p nk (w.map (reorder o p)) = reorder o p (expandWord o nk w) := by
      simp only [expandWord, List.length_map, getD_map_reorder, expandTerm_reorder, reorder_xor]
    rw [expandMore, expandMore, ← ih, hnext, List.map_append, List.map_singleton]

theorem keyWords_reorder (s : State) (nk : Nat) : keyWords ⟨p, e⟩ s nk = (keyWords ⟨o, e⟩ s nk).map (reorder o p) := by
  simp only [keyWords, List.map_map, Function.comp_def, reorder_marshalIn]

theorem expandedKey_reorder (keybits : BitVec 9) (s : State) :
    expandedKey ⟨p, e⟩ keybits s = (expandedKey ⟨o, e⟩ keybits s).map (reorder o p) := by
  rw [expandedKey, keyWords_reorder o p, keyExpand, expandMore_reorder]
  rfl

theorem dkWord_reorder (nr : Nat) (w : List Word) (i : Nat) :
    dkWord p nr (w.map (reorder o p)) i = reorder o p (dkWord o nr w i) := by
  unfold dkWord
  split_ifs
  · exact getD_map_reorder o p w i
  · rw [getD_map_reorder, invMixColumn_reorder]

theorem ekStorage_reorder (nr : Nat) (w : List Word) (i : Fin 60) :
    (ekStorage nr (w.map (reorder o p)))[i] = reorder o p (ekStorage nr w)[i] := by
  simp only [ekStorage_getElem, getD_map_reorder, apply_ite (reorder o p), reorder_zero]

theorem dkStorage_reorder (mode : BitVec 2) (nr : Nat) (w : List Word) (i : Fin 60) :
    (dkStorage p mode nr (w.map (reorder o p)))[i] = reorder o p (dkStorage o mode nr w)[i] := by
  simp only [dkStorage_getElem, dkWord_reorder, apply_ite (reorder o p), reorder_zero]

end Reorder

/-- R212: under either internal order a completion leaves schedules that are the same words on the bus. -/
theorem setupKeyComplete_sameWords (i1 i2 e : ByteOrder) (keybits : BitVec 9) (mode : BitVec 2) (s : State) :
    SameWords ⟨i1, e⟩ ⟨i2, e⟩ (setupKeyComplete ⟨i1, e⟩ keybits mode s).ek (setupKeyComplete ⟨i2, e⟩ keybits mode s).ek
    ∧ SameWords ⟨i1, e⟩ ⟨i2, e⟩ (setupKeyComplete ⟨i1, e⟩ keybits mode s).dk
        (setupKeyComplete ⟨i2, e⟩ keybits mode s).dk := by
  simp only [SameWords, setupKeyComplete_ek, setupKeyComplete_dk, expandedKey_reorder i1 i2, ekStorage_reorder,
    dkStorage_reorder, marshalOut_reorder, implies_true, and_self]

/-- R212: a completion's schedules are those of any other state with the same KEY words below Nk. -/
theorem setupKeyComplete_congr (b : Build) {keybits : BitVec 9} (mode : BitVec 2) {s1 s2 : State}
    (h : ∀ j : Fin 8, j.val < nkOf keybits → s1.key[j] = s2.key[j]) :
    (setupKeyComplete b keybits mode s1).ek = (setupKeyComplete b keybits mode s2).ek
    ∧ (setupKeyComplete b keybits mode s1).dk = (setupKeyComplete b keybits mode s2).dk := by
  simp only [setupKeyComplete_ek, setupKeyComplete_dk, expandedKey_congr b h, and_self]

/-- R212: NR and the VALID bits come from KEYBITS and MODE. -/
theorem setupKeyComplete_nr_valid (b1 b2 : Build) (keybits : BitVec 9) (mode : BitVec 2) (s1 s2 : State) :
    (setupKeyComplete b1 keybits mode s1).nr = (setupKeyComplete b2 keybits mode s2).nr
    ∧ (setupKeyComplete b1 keybits mode s1).encValid = (setupKeyComplete b2 keybits mode s2).encValid
    ∧ (setupKeyComplete b1 keybits mode s1).decValid = (setupKeyComplete b2 keybits mode s2).decValid := by
  simp only [setupKeyComplete_nr, setupKeyComplete_encValid, setupKeyComplete_decValid, and_self]

/-- Settles O24: change the state under one order, then the order in one state. -/
theorem setupKeyDependsOnItsOperandsAlone : Obligations.SetupKeyDependsOnItsOperandsAlone := by
  intro i1 i2 e keybits mode s1 s2 hl hb1 hb2 hkey
  obtain ⟨hek, hdk⟩ := setupKeyComplete_congr ⟨i1, e⟩ mode hkey
  obtain ⟨sameEk, sameDk⟩ := setupKeyComplete_sameWords i1 i2 e keybits mode s2
  obtain ⟨hnr, henc, hdec⟩ := setupKeyComplete_nr_valid ⟨i1, e⟩ ⟨i2, e⟩ keybits mode s1 s2
  refine ⟨_, _, setupKeyIn_of_busy _ hb1 hl, setupKeyIn_of_busy _ hb2 hl, hnr, henc, hdec, ?_, fun i => ?_⟩
  · rintro rfl
    exact ⟨hek, hdk⟩
  · rw [hek, hdk]
    exact ⟨sameEk i, sameDk i⟩

end Sys2Proof.Machine
end

section
/-! PROOFS for the statements about the round engine (spec/42_round_engine.md): the table rounds as FIPS-197's transformations of
the block's bytes (R251 to R257), decryption and encryption undoing each other (R258), the two commands (R260, R261, R270, R271),
and the round trip through the registers. -/

namespace Sys2Proof.Machine

/-! ### The table rounds on the block's bytes -/

section Rounds

variable (o : ByteOrder) (Y K : Words 4)

/-- R164: the four table reads of a column are the diffusion of its substituted, shifted bytes. -/
theorem fround_column (c : Fin 4) : (fround o Y K)[c] = K[c] ^^^ mixColumn o
    (mkword o (sbox (lane o Y[c] 0)) (sbox (lane o Y[c + 1] 1)) (sbox (lane o Y[c + 2] 2)) (sbox (lane o Y[c + 3] 3))) := by
  rw [← ft_fold]
  simp only [fround, Fin.getElem_fin, Vector.getElem_ofFn, BitVec.xor_assoc]

theorem rround_column (c : Fin 4) : (rround o Y K)[c] = K[c] ^^^ invMixColumn o
    (mkword o (invSbox (lane o Y[c] 0)) (invSbox (lane o Y[c - 1] 1)) (invSbox (lane o Y[c - 2] 2))
      (invSbox (lane o Y[c - 3] 3))) := by
  rw [← rt_fold]
  simp only [rround, Fin.getElem_fin, Vector.getElem_ofFn, BitVec.xor_assoc]

theorem lane_mkword_of_bytes (a : Fin 4 → Byte) : lane o (mkword o (a 0) (a 1) (a 2) (a 3)) = a := by
  funext r
  rw [lane_mkword]
  match r with
  | 0 | 1 | 2 | 3 => rfl

theorem bytesOf_fround :
    bytesOf o (fround o Y K) = addRoundKey (mixColumns (shiftRows (subBytes (bytesOf o Y)))) (bytesOf o K) := by
  funext c r
  have hcol := lane_mkword_of_bytes o (shiftRows (subBytes (bytesOf o Y)) c)
  simp only [shiftRows, subBytes, bytesOf, add_zero] at hcol
  rw [bytesOf, fround_column, lane_xor, lane_mixColumn, hcol, BitVec.xor_comm]
  rfl

theorem bytesOf_rround :
    bytesOf o (rround o Y K) = addRoundKey (invMixColumns (invSubBytes (invShiftRows (bytesOf o Y)))) (bytesOf o K) := by
  funext c r
  have hcol := lane_mkword_of_bytes o (invSubBytes (invShiftRows (bytesOf o Y)) c)
  simp only [invShiftRows, invSubBytes, bytesOf, sub_zero] at hcol
  rw [bytesOf, rround_column, lane_xor, lane_invMixColumn, hcol, BitVec.xor_comm]
  rfl

end Rounds

/-! ### The cipher -/

theorem bytesOf_forwardRounds (o : ByteOrder) (ek : Words 60) (X : Words 4) (r : Nat) :
    bytesOf o (forwardRounds o ek (whiten X (roundKey ek 0)) r) = textbookRounds (keyBytes o ek) (bytesOf o X) r := by
  induction r with
  | zero => exact bytesOf_whiten o X _
  | succ r ih => rw [forwardRounds, bytesOf_fround, ih, textbookRounds, keyBytes]

/-- Settles O29: the whitening, each full round and the final round on the bytes. -/
theorem cipherIsTheTextbookCipher : Obligations.CipherIsTheTextbookCipher := by
  intro o ek nr X
  rw [cipher, bytesOf_ffinal, bytesOf_forwardRounds, textbookCipher, keyBytes]

/-! ### The inverse cipher: the round keys of DK are those of EK, through InvMixColumns but for the first and the last, and
InvMixColumns is linear -/

section DecryptSchedule

variable {o : ByteOrder} {nr : Nat} {ek dk : Words 60}

theorem keyBytes_apply (k : Words 60) {r : Nat} {c : Fin 4} (h : 4 * r + c.val < 60) :
    keyBytes o k r c = lane o k[4 * r + c.val] := by
  funext l
  simp [keyBytes, bytesOf, roundKey, scheduleWord_eq _ _ h]

theorem DecryptScheduleOf.getElem (hd : DecryptScheduleOf o nr ek dk) {i : Nat} (h : i < 60) (hn : i < scheduleLength nr) :
    dk[i] = if i < 4 ∨ 4 * nr ≤ i then ek[i] else invMixColumn o ek[i] := by
  have hi := hd ⟨i, h⟩ hn
  simpa [dkWord, List.getD, h] using hi

/-- R207: the first and the last round key are those of EK. -/
theorem DecryptScheduleOf.keyBytes_outer (hd : DecryptScheduleOf o nr ek dk) (hnr : nr ≤ 14) {r : Nat}
    (hr : r = 0 ∨ r = nr) : keyBytes o dk r = keyBytes o ek r := by
  funext c
  have h60 : 4 * r + c.val < 60 := by omega
  rw [keyBytes_apply dk h60, keyBytes_apply ek h60, hd.getElem h60 (by rw [scheduleLength]; omega), if_pos (by omega)]

/-- R207: the round keys between are transformed. -/
theorem DecryptScheduleOf.keyBytes_inner (hd : DecryptScheduleOf o nr ek dk) (hnr : nr ≤ 14) {r : Nat} (h0 : 0 < r)
    (hr : r < nr) : keyBytes o dk r = invMixColumns (keyBytes o ek r) := by
  funext c
  have h60 : 4 * r + c.val < 60 := by omega
  rw [keyBytes_apply dk h60, hd.getElem h60 (by rw [scheduleLength]; omega), if_neg (by omega), invMixColumns,
    keyBytes_apply ek h60]
  exact funext (lane_invMixColumn o _)

theorem invMixColumns_addRoundKey (B K : Bytes) :
    invMixColumns (addRoundKey B K) = addRoundKey (invMixColumns B) (invMixColumns K) := by
  funext c r
  simp only [invMixColumns, addRoundKey, invMixLane, gmul_xor_right]
  ac_rfl

/-- One full round with a transformed round key: the key is added before InvMixColumns instead of after it. -/
theorem DecryptScheduleOf.bytesOf_rround (hd : DecryptScheduleOf o nr ek dk) (hnr : nr ≤ 14) {r : Nat} (h0 : 0 < r)
    (hr : r < nr) (Y : Words 4) : bytesOf o (rround o Y (roundKey dk r))
      = invMixColumns (addRoundKey (invSubBytes (invShiftRows (bytesOf o Y))) (keyBytes o ek r)) := by
  rw [Machine.bytesOf_rround, ← keyBytes, hd.keyBytes_inner hnr h0 hr, invMixColumns_addRoundKey]

/-- The full rounds with the round keys r down to 1, and the final round. -/
theorem DecryptScheduleOf.bytesOf_rfinal_inverseRounds (hd : DecryptScheduleOf o nr ek dk) (hnr : nr ≤ 14) {r : Nat}
    (hr : r ≤ nr - 1) (Y : Words 4) : bytesOf o (rfinal o (inverseRounds o dk Y r) (roundKey dk 0))
      = textbookInvRounds (keyBytes o ek) (bytesOf o Y) r := by
  induction r generalizing Y with
  | zero => rw [inverseRounds, bytesOf_rfinal, ← keyBytes, hd.keyBytes_outer hnr (.inl rfl), textbookInvRounds]
  | succ r ih =>
    rw [inverseRounds, ih (by omega), hd.bytesOf_rround hnr (by omega) (by omega), textbookInvRounds]

/-- Settles O30: the whitening with the last round key, and the rounds from the last to the first. -/
theorem inverseCipherIsTheTextbookInverseCipher : Obligations.InverseCipherIsTheTextbookInverseCipher := by
  intro o ek dk nr X hnr hd
  rw [invCipher, hd.bytesOf_rfinal_inverseRounds hnr le_rfl, bytesOf_whiten, ← keyBytes, hd.keyBytes_outer hnr (.inr rfl),
    textbookInvCipher]

end DecryptSchedule

/-! ### Decryption undoes encryption -/

@[simp] theorem addRoundKey_cancel (B K : Bytes) : addRoundKey (addRoundKey B K) K = B := by
  funext c r
  simp [addRoundKey]

@[simp] theorem invShiftRows_shiftRows (B : Bytes) : invShiftRows (shiftRows B) = B := by
  funext c r
  simp [invShiftRows, shiftRows]

@[simp] theorem invSubBytes_subBytes (B : Bytes) : invSubBytes (subBytes B) = B := by
  funext c r
  exact invSbox_sbox (B c r)

@[simp] theorem invMixColumns_mixColumns (B : Bytes) : invMixColumns (mixColumns B) = B := by
  funext c r
  exact invMixLane_mixLane (B c) r

/-- From a state that the forward rounds 1 .. r have led to, the inverse rounds lead back: each takes off one of them. -/
theorem textbookInvRounds_textbookRounds (K : Nat → Bytes) (B : Bytes) (r : Nat) :
    textbookInvRounds K (shiftRows (subBytes (textbookRounds K B r))) r = B := by
  induction r with
  | zero => simp [textbookInvRounds, textbookRounds]
  | succ r ih => simpa [textbookInvRounds, textbookRounds] using ih

theorem textbookInvCipher_textbookCipher (K : Nat → Bytes) (nr : Nat) :
    Function.LeftInverse (textbookInvCipher K nr) (textbookCipher K nr) := by
  intro B
  rw [textbookInvCipher, textbookCipher, addRoundKey_cancel, textbookInvRounds_textbookRounds]

/-- There are finitely many blocks, so the cipher, which has a left inverse, has it on the right as well. -/
theorem textbookCipher_textbookInvCipher (K : Nat → Bytes) (nr : Nat) :
    Function.RightInverse (textbookInvCipher K nr) (textbookCipher K nr) :=
  have hinv := textbookInvCipher_textbookCipher K nr
  hinv.rightInverse_of_surjective (Finite.surjective_of_injective hinv.injective)

section RoundTrip

variable {o : ByteOrder} {nr : Nat} {ek dk : Words 60}

theorem DecryptScheduleOf.invCipher_cipher (hd : DecryptScheduleOf o nr ek dk) (hnr : nr ≤ 14) (X : Words 4) :
    invCipher o dk nr (cipher o ek nr X) = X := by
  apply bytesOf_ext o
  rw [inverseCipherIsTheTextbookInverseCipher o ek dk nr _ hnr hd, cipherIsTheTextbookCipher]
  exact textbookInvCipher_textbookCipher _ nr _

theorem DecryptScheduleOf.cipher_invCipher (hd : DecryptScheduleOf o nr ek dk) (hnr : nr ≤ 14) (X : Words 4) :
    cipher o ek nr (invCipher o dk nr X) = X := by
  apply bytesOf_ext o
  rw [cipherIsTheTextbookCipher, inverseCipherIsTheTextbookInverseCipher o ek dk nr _ hnr hd]
  exact textbookCipher_textbookInvCipher _ nr _

/-- R207, R208: with MODE bit 1 set the DK stored is the decrypt schedule of the EK stored. -/
theorem decryptScheduleOf_dkStorage {mode : BitVec 2} (hm : mode.getLsbD 1 = true) (w : List Word) :
    DecryptScheduleOf o nr (ekStorage nr w) (dkStorage o mode nr w) := by
  intro i hi
  have hek : (ekStorage nr w).toList.getD i.val 0 = w.getD i.val 0 := by
    simpa [List.getD, hi] using ekStorage_getElem nr w i
  rw [dkStorage_getElem, if_pos ⟨hm, hi⟩, dkWord, dkWord, hek]

end RoundTrip

theorem nrOf_le {keybits : BitVec 9} {mode : BitVec 2} (h : setupKeyLegal keybits mode = true) :
    nrOf (nkOf keybits) ≤ 14 := by
  rcases nrOf_cases h with h | h | h <;> omega

/-- Settles O31: the stored schedules are related by R207, whatever the words of the expansion. -/
theorem decryptionUndoesEncryption : Obligations.DecryptionUndoesEncryption := by
  intro b keybits mode s X hl hm
  have hd := decryptScheduleOf_dkStorage (o := b.internal) (nr := nrOf (nkOf keybits)) hm (expandedKey b keybits s)
  exact ⟨hd.invCipher_cipher (nrOf_le hl) X, hd.cipher_invCipher (nrOf_le hl) X⟩

/-! ### The commands -/

section Commands

variable {s : State}

theorem exec_encrypt_of_busy (hb : s.busy = true) : exec .encrypt s = .next (encryptComplete Config.build s) := by
  simp [exec, execEncrypt, encryptIn, hb]

theorem exec_decrypt_of_busy (hb : s.busy = true) : exec .decrypt s = .next (decryptComplete Config.build s) := by
  simp [exec, execDecrypt, decryptIn, hb]

variable (hr : s.ready = true) (hb : s.busy = false)
include hr hb

theorem exec_encrypt_of_valid (hv : s.encValid = true) : exec .encrypt s = .next (accept (encode .encrypt) s) := by
  simp [exec, execEncrypt, encryptIn, hr, hb, hv]

theorem exec_encrypt_of_not_valid (hv : s.encValid = false) : exec .encrypt s = .next (reject .noSchedule s) := by
  simp [exec, execEncrypt, encryptIn, hr, hb, hv]

theorem exec_decrypt_of_valid (hv : s.decValid = true) : exec .decrypt s = .next (accept (encode .decrypt) s) := by
  simp [exec, execDecrypt, decryptIn, hr, hb, hv]

theorem exec_decrypt_of_not_valid (hv : s.decValid = false) : exec .decrypt s = .next (reject .noSchedule s) := by
  simp [exec, execDecrypt, decryptIn, hr, hb, hv]

end Commands

/-- R302: the bus form of an internal word packs its lanes in the external order. -/
theorem marshalOut_eq_pack (b : Build) (W : Word) : marshalOut b W
    = pack b.external (lane b.internal W 0) (lane b.internal W 1) (lane b.internal W 2) (lane b.internal W 3) := by
  apply word_ext b.external
  intro r
  rw [pack_eq_mkword, lane_mkword_of_bytes, ← unpack_marshalOut, unpack_eq_lane]

/-- Settles O26: the completion by its fields, and the bus form of its output. -/
theorem encryptCompletes : Obligations.EncryptCompletes :=
  fun _ hb => ⟨_, exec_encrypt_of_busy hb, rfl, fun _ => ⟨rfl, marshalOut_eq_pack Config.build _⟩⟩

/-- Settles O27: the completion by its fields. -/
theorem decryptCompletes : Obligations.DecryptCompletes :=
  fun _ => exec_decrypt_of_busy

/-- Settles O28: the accepts and the rejections by their fields. -/
theorem encryptAndDecryptNeedTheirSchedule : Obligations.EncryptAndDecryptNeedTheirSchedule :=
  ⟨fun _ hr hb => ⟨exec_encrypt_of_valid hr hb, exec_encrypt_of_not_valid hr hb⟩,
    fun _ hr hb => ⟨exec_decrypt_of_valid hr hb, exec_decrypt_of_not_valid hr hb⟩⟩

/-! ### The round trip through the registers -/

@[simp] theorem marshalOut_marshalOut (b : Build) (v : Word) : marshalOut b (marshalOut b v) = v := by
  obtain ⟨i, e⟩ := b
  apply word_ext e
  intro r
  rw [← unpack_eq_lane, unpack_marshalOut ⟨i, e⟩]
  exact lane_marshalIn i e v r

section Steps

variable {s : State} {i : Instr} {rest : List Event}

/-- The CMD write of a command on a ready, idle block. -/
theorem step_command_write (h : s.events = asmWr 0x000 (encode i) :: rest) (hr : s.ready = true) (hb : s.busy = false) :
    step s = exec i { s with events := rest, reply := some ⟨false, 0⟩ } := by
  rw [step_write_register (r := .cmd) h rfl]
  simp [writeRegister, commandWrite, hr, hb, decodeWord_encode]

/-- The completion event of a command in progress. -/
theorem step_complete (h : s.events = .complete :: rest) (hb : s.busy = true) (hd : decode s.cur = .command i) :
    step s = exec i { s with events := rest } := by
  simp [step, nextStep, h, eventStep, completionStep, hb, completeCommand, hd]

section Command

variable (hr : s.ready = true) (hb : s.busy = false)
include hr hb

/-- The CMD write of a command that is accepted, and its completion. -/
theorem run_command {u : State} (hd : decode (encode i) = .command i)
    (haccept : exec i { s with events := [.complete], reply := some ⟨false, 0⟩ }
      = .next (accept (encode i) { s with events := [.complete], reply := some ⟨false, 0⟩ }))
    (hcomplete : exec i (accept (encode i) { s with events := [], reply := some ⟨false, 0⟩ }) = .next u) :
    Sys2Proof.core.run 2 { s with events := [asmWr 0x000 (encode i), .complete] } = .next u := by
  have hwrite := (step_command_write (s := { s with events := [asmWr 0x000 (encode i), .complete] }) rfl hr hb).trans haccept
  rw [core_run_next hwrite, core_run_next ((step_complete rfl rfl hd).trans hcomplete), core_run_zero]

theorem run_encrypt (hv : s.encValid = true) :
    Sys2Proof.core.run 2 { s with events := [asmWr 0x000 0x00000002, .complete] } = .next
      { s with doutW := cipher Config.build.internal s.ek s.nr.toNat (inputBlock Config.build s), cur := 0x00000002,
               busy := false, done := true, err := 0, events := [], reply := some ⟨false, 0⟩ } :=
  run_command (i := .encrypt) hr hb (by decide) (exec_encrypt_of_valid hr hb hv) (exec_encrypt_of_busy rfl)

theorem run_decrypt (hv : s.decValid = true) :
    Sys2Proof.core.run 2 { s with events := [asmWr 0x000 0x00000003, .complete] } = .next
      { s with doutW := invCipher Config.build.internal s.dk s.nr.toNat (inputBlock Config.build s), cur := 0x00000003,
               busy := false, done := true, err := 0, events := [], reply := some ⟨false, 0⟩ } :=
  run_command (i := .decrypt) hr hb (by decide) (exec_decrypt_of_valid hr hb hv) (exec_decrypt_of_busy rfl)

end Command

/-- A write of a DIN word while no command is in progress. -/
theorem step_write_din_of_idle {off : BitVec 12} {v : Word} {c : Fin 4} (h : s.events = asmWr off v :: rest)
    (hb : s.busy = false) (ho : off.toNat = 0x040 + 4 * c.val) :
    step s = .next { s with din := s.din.set c.val v, events := rest, reply := some ⟨false, 0⟩ } := by
  rw [step_write_din h ho, if_neg (ne_true_of_eq_false hb)]

/-- LDBLK on an idle block, whatever comes after it. -/
theorem run_ldBlk (hb : s.busy = false) (w0 w1 w2 w3 : Word) (rest : List Event) (k : Nat) :
    Sys2Proof.core.run (k + 4) { s with events := asmLdBlk w0 w1 w2 w3 ++ rest }
      = Sys2Proof.core.run k { s with din := #v[w0, w1, w2, w3], events := rest, reply := some ⟨false, 0⟩ } := by
  have hdin : (((s.din.set 0 w0).set 1 w1).set 2 w2).set 3 w3 = #v[w0, w1, w2, w3] := by
    apply Vector.ext
    intro c hc
    match c with
    | 0 | 1 | 2 | 3 => simp
  calc Sys2Proof.core.run (k + 4) { s with events := asmLdBlk w0 w1 w2 w3 ++ rest }
      = Sys2Proof.core.run (k + 3) { s with
          din := s.din.set 0 w0, events := asmWrAll 0x044 [w1, w2, w3] ++ rest, reply := some ⟨false, 0⟩ } :=
        core_run_next (step_write_din_of_idle (c := 0) rfl (by exact hb) rfl)
    _ = Sys2Proof.core.run (k + 2) { s with
          din := (s.din.set 0 w0).set 1 w1, events := asmWrAll 0x048 [w2, w3] ++ rest, reply := some ⟨false, 0⟩ } :=
        core_run_next (step_write_din_of_idle (c := 1) rfl (by exact hb) rfl)
    _ = Sys2Proof.core.run (k + 1) { s with
          din := ((s.din.set 0 w0).set 1 w1).set 2 w2, events := asmWrAll 0x04C [w3] ++ rest,
          reply := some ⟨false, 0⟩ } :=
        core_run_next (step_write_din_of_idle (c := 2) rfl (by exact hb) rfl)
    _ = Sys2Proof.core.run k { s with
          din := (((s.din.set 0 w0).set 1 w1).set 2 w2).set 3 w3, events := rest, reply := some ⟨false, 0⟩ } :=
        core_run_next (step_write_din_of_idle (c := 3) rfl (by exact hb) rfl)
    _ = _ := by rw [hdin]

end Steps

/-- What the host copies from DOUT to DIN is read back as the output block. -/
theorem inputBlock_of_copied_dout (b : Build) (s : State) (a : Option Reply) :
    inputBlock b { s with
      din := #v[readRegister b s (.dout 0), readRegister b s (.dout 1), readRegister b s (.dout 2),
                readRegister b s (.dout 3)],
      reply := a } = s.doutW := by
  apply Vector.ext
  intro c hc
  match c with
  | 0 | 1 | 2 | 3 => simp [inputBlock, readRegister]

/-- The host's copy of DOUT to DIN, and DECRYPT: the inverse cipher of the output block. -/
theorem run_copy_decrypt {s : State} (hr : s.ready = true) (hb : s.busy = false) (hv : s.decValid = true) :
    let copy := asmLdBlk (readRegister Config.build s (.dout 0)) (readRegister Config.build s (.dout 1))
      (readRegister Config.build s (.dout 2)) (readRegister Config.build s (.dout 3))
    ∃ u, Sys2Proof.core.run 6 { s with events := copy ++ [asmWr 0x000 0x00000003, .complete] } = .next u
      ∧ u.doutW = invCipher Config.build.internal s.dk s.nr.toNat s.doutW := by
  intro copy
  have hdecrypt := run_decrypt (s := { s with
    din := #v[readRegister Config.build s (.dout 0), readRegister Config.build s (.dout 1),
              readRegister Config.build s (.dout 2), readRegister Config.build s (.dout 3)],
    reply := some ⟨false, 0⟩ }) hr hb hv
  rw [inputBlock_of_copied_dout] at hdecrypt
  exact ⟨_, (run_ldBlk hb _ _ _ _ _ 2).trans hdecrypt, rfl⟩

/-- With DEC_VALID the schedules and NR of a block that meets the invariants are those of one SETUP_KEY (R211). -/
theorem ScheduleInv.decryptScheduleOf {b : Build} {s : State} (hs : ScheduleInv b s) (hv : s.decValid = true) :
    DecryptScheduleOf b.internal s.nr.toNat s.ek s.dk ∧ s.nr.toNat ≤ 14 := by
  obtain ⟨keybits, mode, key, hl, ⟨hnr, hek, hdk⟩, _, hmode⟩ := hs.established (hs.nr_established (.inr hv))
  have hle := nrOf_le hl
  have htoNat : s.nr.toNat = nrOf (nkOf keybits) := by
    rw [hnr, BitVec.toNat_ofNat]
    omega
  rw [htoNat, hek, hdk]
  exact ⟨decryptScheduleOf_dkStorage (hmode hv) _, hle⟩

/-- Settles O32: ENCRYPT leaves the cipher of DIN in DOUT_W, the copy makes it the input block, and DECRYPT undoes it; DIN is
marshalled in once and out once. -/
theorem roundTripThroughTheRegisters : Obligations.RoundTripThroughTheRegisters := by
  rintro s - hs ⟨hr, hb⟩ henc hdec
  obtain ⟨hd, hnr⟩ := hs.decryptScheduleOf hdec
  obtain ⟨u, hrun, hout⟩ := run_copy_decrypt
    (s := { s with doutW := cipher Config.build.internal s.ek s.nr.toNat (inputBlock Config.build s), cur := 0x00000002,
                   busy := false, done := true, err := 0, events := [], reply := some ⟨false, 0⟩ }) hr rfl hdec
  refine ⟨_, u, run_encrypt hr hb henc, hrun, fun c => ?_⟩
  rw [hd.invCipher_cipher hnr] at hout
  simp [readRegister, hout, inputBlock]

end Sys2Proof.Machine
end

section
/-! PROOFS for the statements about marshaling (spec/43_marshaling.md): the lanes and the round trip (R302, R303, R307), and
that the internal order is not observable (R304). A block's state is carried to the state of a block with another internal
order that has the same bytes in the same lanes; every step commutes with that, and every read but that of PARAMS is the
same. -/

namespace Sys2Proof.Machine

/-! ### Lanes and bus bytes -/

/-- Settles O6: `lane_marshalIn`, and `marshalOut_eq_pack` for a word that is given by its lanes. -/
theorem lanesAreTheBusBytes : Obligations.LanesAreTheBusBytes := by
  refine ⟨fun b v r => lane_marshalIn b.internal b.external v r, fun b b0 b1 b2 b3 => ?_⟩
  rw [marshalOut_eq_pack, lane_mkword_zero, lane_mkword_one, lane_mkword_two, lane_mkword_three]

/-- Settles O7: both marshalings are one map, which is its own inverse. -/
theorem marshalingRoundTrip : Obligations.MarshalingRoundTrip := fun b v =>
  ⟨marshalOut_marshalOut b v, marshalOut_marshalOut b v⟩

theorem unpack_pack (o : ByteOrder) (b0 b1 b2 b3 : Byte) (r : Fin 4) :
    unpack o (pack o b0 b1 b2 b3) r = fourOf b0 b1 b2 b3 r := by
  rw [unpack_eq_lane, pack_eq_mkword, lane_mkword]

/-- Settles O8: six fixed words, and R302 for the lanes. -/
theorem marshalingInTheFourBuilds : Obligations.MarshalingInTheFourBuilds := by
  refine ⟨by decide, by decide, by decide, by decide, by decide, fun b => ?_⟩
  obtain ⟨hlane, -⟩ := lanesAreTheBusBytes
  rw [hlane, hlane, unpack_pack, unpack_pack]
  exact ⟨rfl, rfl⟩

/-! ### Words under another internal order -/

/-- The words whose lanes under the order `p` are those of `w` under the order `o`. -/
def reorderWords {n : Nat} (o p : ByteOrder) (w : Words n) : Words n := w.map (reorder o p)

section ReorderWords

variable (o p e : ByteOrder)

theorem reorderWords_getElem {n : Nat} (w : Words n) (i : Fin n) : (reorderWords o p w)[i] = reorder o p w[i] :=
  Vector.getElem_map (reorder o p) i.isLt

/-- Words that are seen alike are the reordered ones: the bus form determines a word. -/
theorem sameWords_iff {n : Nat} (w1 w2 : Words n) : SameWords ⟨o, e⟩ ⟨p, e⟩ w1 w2 ↔ w2 = reorderWords o p w1 := by
  have word_iff (W1 W2 : Word) : marshalOut ⟨o, e⟩ W1 = marshalOut ⟨p, e⟩ W2 ↔ W2 = reorder o p W1 := by
    have hinj : Function.Injective (marshalOut ⟨p, e⟩) := Function.LeftInverse.injective (marshalOut_marshalOut ⟨p, e⟩)
    rw [← marshalOut_reorder o p e W1, hinj.eq_iff, eq_comm]
  simp only [SameWords, word_iff, ← reorderWords_getElem]
  exact ⟨fun h => Vector.ext fun i hi => h ⟨i, hi⟩, fun h i => by rw [h]⟩

@[simp] theorem bytesOf_reorderWords (Y : Words 4) : bytesOf p (reorderWords o p Y) = bytesOf o Y := by
  funext c r
  rw [bytesOf, reorderWords_getElem, lane_reorder, bytesOf]

theorem reorderWords_replicate_zero (n : Nat) :
    reorderWords o p (Vector.replicate n 0) = Vector.replicate n 0 := by
  rw [reorderWords, Vector.map_replicate, reorder_zero]

/-! ### The ciphers and the stored schedules under another internal order -/

theorem scheduleWord_reorderWords (k : Words 60) (i : Nat) :
    scheduleWord (reorderWords o p k) i = reorder o p (scheduleWord k i) := by
  rw [scheduleWord, scheduleWord, reorderWords, Vector.getElem?_map]
  cases k[i]? with
  | none => exact (reorder_zero o p).symm
  | some W => rfl

theorem roundKey_reorderWords (k : Words 60) (r : Nat) :
    roundKey (reorderWords o p k) r = reorderWords o p (roundKey k r) := by
  apply Vector.ext
  intro c hc
  simp [roundKey, reorderWords, ← scheduleWord_reorderWords]

theorem keyBytes_reorderWords (k : Words 60) : keyBytes p (reorderWords o p k) = keyBytes o k := by
  funext r
  rw [keyBytes, roundKey_reorderWords, bytesOf_reorderWords, keyBytes]

/-- Both ciphers are the textbook cipher on the bytes (R255). -/
theorem cipher_reorderWords (ek : Words 60) (nr : Nat) (X : Words 4) :
    cipher p (reorderWords o p ek) nr (reorderWords o p X) = reorderWords o p (cipher o ek nr X) := by
  apply bytesOf_ext p
  rw [bytesOf_reorderWords, cipherIsTheTextbookCipher, cipherIsTheTextbookCipher, keyBytes_reorderWords,
    bytesOf_reorderWords]

theorem whiten_reorderWords (Y K : Words 4) :
    whiten (reorderWords o p Y) (reorderWords o p K) = reorderWords o p (whiten Y K) := by
  apply bytesOf_ext p
  simp only [bytesOf_whiten, bytesOf_reorderWords]

theorem rround_reorderWords (Y K : Words 4) :
    rround p (reorderWords o p Y) (reorderWords o p K) = reorderWords o p (rround o Y K) := by
  apply bytesOf_ext p
  simp only [bytesOf_rround, bytesOf_reorderWords]

theorem rfinal_reorderWords (Y K : Words 4) :
    rfinal p (reorderWords o p Y) (reorderWords o p K) = reorderWords o p (rfinal o Y K) := by
  apply bytesOf_ext p
  simp only [bytesOf_rfinal, bytesOf_reorderWords]

theorem inverseRounds_reorderWords (dk : Words 60) (Y : Words 4) (r : Nat) :
    inverseRounds p (reorderWords o p dk) (reorderWords o p Y) r = reorderWords o p (inverseRounds o dk Y r) := by
  induction r generalizing Y with
  | zero => rfl
  | succ r ih => rw [inverseRounds, roundKey_reorderWords, rround_reorderWords, ih, inverseRounds]

/-- The inverse cipher of any schedule, also of one that no encrypt schedule gives: the transformations agree one by one. -/
theorem invCipher_reorderWords (dk : Words 60) (nr : Nat) (X : Words 4) :
    invCipher p (reorderWords o p dk) nr (reorderWords o p X) = reorderWords o p (invCipher o dk nr X) := by
  simp only [invCipher, roundKey_reorderWords, whiten_reorderWords, inverseRounds_reorderWords, rfinal_reorderWords]

theorem ekStorage_map_reorder (nr : Nat) (w : List Word) :
    ekStorage nr (w.map (reorder o p)) = reorderWords o p (ekStorage nr w) :=
  Vector.ext fun i hi => (ekStorage_reorder o p nr w ⟨i, hi⟩).trans (reorderWords_getElem o p _ ⟨i, hi⟩).symm

theorem dkStorage_map_reorder (mode : BitVec 2) (nr : Nat) (w : List Word) :
    dkStorage p mode nr (w.map (reorder o p)) = reorderWords o p (dkStorage o mode nr w) :=
  Vector.ext fun i hi => (dkStorage_reorder o p mode nr w ⟨i, hi⟩).trans (reorderWords_getElem o p _ ⟨i, hi⟩).symm

end ReorderWords

/-! ### States under another internal order -/

/-- The state of a block of internal order `p` that looks like the state `s` of a block of internal order `o`. Its last
answer is `a`, since the answers to past accesses are not compared. -/
def reorderState (o p : ByteOrder) (a : Option Reply) (s : State) : State :=
  { s with
    doutW := reorderWords o p s.doutW
    ek := reorderWords o p s.ek
    dk := reorderWords o p s.dk
    reply := a }

/-- An outcome with its next state, if it has one, changed by `f`. -/
def mapNext (f : State → State) : Result → Result
  | .next s => .next (f s)
  | .fault r => .fault r
  | .refused r => .refused r

theorem mapNext_ite (f : State → State) (c : Prop) [Decidable c] (x y : Result) :
    mapNext f (if c then x else y) = if c then mapNext f x else mapNext f y :=
  apply_ite (mapNext f) c x y

section ReorderState

variable (o p e : ByteOrder) (a : Option Reply) (s : State)

theorem sameView_reorderState : SameView ⟨o, e⟩ ⟨p, e⟩ s (reorderState o p a s) where
  ready := rfl
  busy := rfl
  done := rfl
  err := rfl
  encValid := rfl
  decValid := rfl
  nr := rfl
  cur := rfl
  key := rfl
  din := rfl
  doutW := (sameWords_iff o p e _ _).mpr rfl
  ek := (sameWords_iff o p e _ _).mpr rfl
  dk := (sameWords_iff o p e _ _).mpr rfl
  events := rfl

variable {o p e s} in
/-- A block that looks like `s` is in the reordered state. -/
theorem SameView.eq_reorderState {t : State} (h : SameView ⟨o, e⟩ ⟨p, e⟩ s t) : t = reorderState o p t.reply s := by
  obtain ⟨hready, hbusy, hdone, herr, henc, hdec, hnr, hcur, hkey, hdin, hdoutW, hek, hdk, hevents⟩ := h
  rw [sameWords_iff] at hdoutW hek hdk
  rw [reorderState, hready, hbusy, hdone, herr, henc, hdec, hnr, hcur, hkey, hdin, ← hdoutW, ← hek, ← hdk, hevents]

/-! ### The commands -/

theorem inputBlock_reorderState :
    inputBlock ⟨p, e⟩ (reorderState o p a s) = reorderWords o p (inputBlock ⟨o, e⟩ s) := by
  have hmarshal : marshalIn ⟨p, e⟩ = reorder o p ∘ marshalIn ⟨o, e⟩ := funext fun v => (reorder_marshalIn o p e v).symm
  rw [inputBlock, hmarshal, reorderWords, inputBlock, Vector.map_map]
  rfl

theorem setupKeyComplete_reorderState (keybits : BitVec 9) (mode : BitVec 2) :
    setupKeyComplete ⟨p, e⟩ keybits mode (reorderState o p a s)
      = reorderState o p a (setupKeyComplete ⟨o, e⟩ keybits mode s) := by
  have hw : expandedKey ⟨p, e⟩ keybits (reorderState o p a s) = (expandedKey ⟨o, e⟩ keybits s).map (reorder o p) :=
    expandedKey_reorder o p e keybits s
  rw [setupKeyComplete, hw, ekStorage_map_reorder, dkStorage_map_reorder]
  rfl

theorem encryptComplete_reorderState :
    encryptComplete ⟨p, e⟩ (reorderState o p a s) = reorderState o p a (encryptComplete ⟨o, e⟩ s) := by
  rw [encryptComplete, inputBlock_reorderState]
  exact congrArg (fun Z => finish (writeOutput Z (reorderState o p a s))) (cipher_reorderWords o p s.ek s.nr.toNat _)

theorem decryptComplete_reorderState :
    decryptComplete ⟨p, e⟩ (reorderState o p a s) = reorderState o p a (decryptComplete ⟨o, e⟩ s) := by
  rw [decryptComplete, inputBlock_reorderState]
  exact congrArg (fun Z => finish (writeOutput Z (reorderState o p a s))) (invCipher_reorderWords o p s.dk s.nr.toNat _)

/-- The checks of a command do not look at the reordered words; its completion commutes with the reordering. -/
theorem execIn_reorderState (i : Instr) :
    execIn ⟨p, e⟩ i (reorderState o p a s) = mapNext (reorderState o p a) (execIn ⟨o, e⟩ i s) := by
  cases i with
  | setupKey keybits mode =>
    simp only [execIn, setupKeyIn, mapNext_ite, setupKeyComplete_reorderState]
    rfl
  | encrypt =>
    simp only [execIn, encryptIn, mapNext_ite, encryptComplete_reorderState]
    rfl
  | decrypt =>
    simp only [execIn, decryptIn, mapNext_ite, decryptComplete_reorderState]
    rfl

theorem commandWrite_reorderState (v : Word) :
    commandWrite (execIn ⟨p, e⟩) v (reorderState o p a s)
      = mapNext (reorderState o p a) (commandWrite (execIn ⟨o, e⟩) v s) := by
  unfold commandWrite
  cases decodeWord v with
  | none => simp only [mapNext_ite]; rfl
  | some i => simp only [mapNext_ite, execIn_reorderState]; rfl

theorem completionStep_reorderState :
    completionStep (execIn ⟨p, e⟩) (reorderState o p a s)
      = mapNext (reorderState o p a) (completionStep (execIn ⟨o, e⟩) s) := by
  have hcomplete : completeCommand (execIn ⟨p, e⟩) (reorderState o p a s)
      = mapNext (reorderState o p a) (completeCommand (execIn ⟨o, e⟩) s) := by
    have hcur : (reorderState o p a s).cur = s.cur := rfl
    rw [completeCommand, completeCommand, hcur]
    cases decode s.cur with
    | command i => exact execIn_reorderState o p e a s i
    | illegal => rfl
    | invalid => rfl
  simp only [completionStep, mapNext_ite, hcomplete]
  rfl

/-! ### The steps -/

theorem tableGen_reorderState : tableGen (reorderState o p a s) = reorderState o p a (tableGen s) := by
  rw [tableGen, tableGen, apply_ite (reorderState o p a)]
  rfl

theorem resetEvent_reorderState : resetEvent (reorderState o p a s) = reorderState o p none (resetEvent s) := by
  simp only [resetEvent, reorderState, State.reset, reorderWords_replicate_zero]

theorem coreStep_reorderState :
    coreStep (execIn ⟨p, e⟩) (reorderState o p a s)
      = mapNext (reorderState o p a) (coreStep (execIn ⟨o, e⟩) s) := by
  simp only [coreStep, mapNext_ite, completionStep_reorderState, tableGen_reorderState]
  rfl

/-- A write reaches none of the reordered words. -/
theorem writeRegister_reorderState (v : Word) (r : Register) :
    writeRegister (execIn ⟨p, e⟩) v (reorderState o p a s) r
      = mapNext (reorderState o p a) (writeRegister (execIn ⟨o, e⟩) v s r) := by
  cases r with
  | cmd => exact commandWrite_reorderState o p e a s v
  | key j =>
    rw [writeRegister, writeRegister, mapNext, writeKey, writeKey, apply_ite (reorderState o p a)]
    rfl
  | din c =>
    rw [writeRegister, writeRegister, mapNext, writeDin, writeDin, apply_ite (reorderState o p a)]
    rfl
  | _ => rfl

/-- Each event does the same to both blocks, with an answer of its own. -/
theorem eventStep_reorderState (ev : Event) :
    ∃ a', eventStep ⟨p, e⟩ (execIn ⟨p, e⟩) (reorderState o p a s) ev
      = mapNext (reorderState o p a') (eventStep ⟨o, e⟩ (execIn ⟨o, e⟩) s ev) := by
  cases ev with
  | read off bytes => exact ⟨some (memRead ⟨p, e⟩ off bytes (reorderState o p a s)), rfl⟩
  | write off bytes v =>
    cases ha : accessOk off bytes with
    | false =>
      refine ⟨some busError, ?_⟩
      rw [eventStep, eventStep, memWrite_of_not_ok ha, memWrite_of_not_ok ha]
      rfl
    | true =>
      refine ⟨some writeReply, ?_⟩
      rw [eventStep, eventStep, memWrite_of_ok ha, memWrite_of_ok ha]
      exact writeRegister_reorderState o p e (some writeReply) (answer writeReply s) v _
  | generate => exact ⟨a, congrArg Host.Outcome.next (tableGen_reorderState o p a s)⟩
  | complete => exact ⟨a, completionStep_reorderState o p e a s⟩
  | reset => exact ⟨none, congrArg Host.Outcome.next (resetEvent_reorderState o p a s)⟩

theorem stepIn_reorderState :
    ∃ a', stepIn ⟨p, e⟩ (reorderState o p a s) = mapNext (reorderState o p a') (stepIn ⟨o, e⟩ s) := by
  have hevents : (reorderState o p a s).events = s.events := rfl
  rw [stepIn, stepIn, nextStep, nextStep, hevents]
  cases s.events with
  | nil => exact ⟨a, coreStep_reorderState o p e a s⟩
  | cons ev rest => exact eventStep_reorderState o p e a { s with events := rest } ev

/-! ### The answers to reads -/

variable {r : Register}

/-- Every register but PARAMS reads the same: the stored words in bus form, and the table words by their lanes. -/
theorem readRegister_reorderState (hr : r ≠ .params) :
    readRegister ⟨p, e⟩ (reorderState o p a s) r = readRegister ⟨o, e⟩ s r := by
  have stored {n : Nat} (w : Words n) (i : Fin n) :
      marshalOut ⟨p, e⟩ (reorderWords o p w)[i] = marshalOut ⟨o, e⟩ w[i] := by
    rw [reorderWords_getElem, marshalOut_reorder]
  have table (a0 a1 a2 a3 : Byte) :
      marshalOut ⟨p, e⟩ (mkword p a0 a1 a2 a3) = marshalOut ⟨o, e⟩ (mkword o a0 a1 a2 a3) := by
    rw [← reorder_mkword o p, marshalOut_reorder]
  cases r with
  | params => exact absurd rfl hr
  | dout c => exact stored s.doutW c
  | encRk i => exact stored s.ek i
  | decRk i => exact stored s.dk i
  | ft0w i => exact congrArg (whenReady s) (table _ _ _ _)
  | rt0w i => exact congrArg (whenReady s) (table _ _ _ _)
  | _ => rfl

/-- R83: the internal order is seen in bit 0 alone. -/
theorem paramsValue_upper : (paramsValue ⟨p, e⟩).extractLsb' 1 31 = (paramsValue ⟨o, e⟩).extractLsb' 1 31 := by
  cases o <;> cases p <;> cases e <;> decide

theorem registerAt_eq_params_iff {off : Nat} : registerAt off = .params ↔ off = 0x008 := by
  refine ⟨fun h => ?_, fun h => by rw [h]; rfl⟩
  unfold registerAt at h
  repeat' split at h
  all_goals simp_all

/-- R304: two answers with the same error bit and the same data, but for bit 0 of an aligned 4-byte read of PARAMS. -/
theorem memRead_reorderState (off : BitVec 12) (bytes : Nat) :
    ∃ error v w, memRead ⟨o, e⟩ off bytes s = ⟨error, v⟩
      ∧ memRead ⟨p, e⟩ off bytes (reorderState o p a s) = ⟨error, w⟩
      ∧ v.extractLsb' 1 31 = w.extractLsb' 1 31 ∧ (off ≠ 0x008 ∨ bytes ≠ 4 → v = w) := by
  cases ha : accessOk off bytes with
  | false => exact ⟨true, 0, 0, memRead_of_not_ok ha, memRead_of_not_ok ha, rfl, fun _ => rfl⟩
  | true =>
    refine ⟨false, _, _, memRead_of_ok ha, memRead_of_ok ha, ?_⟩
    by_cases hr : registerAt off.toNat = .params
    · have hoff : off = 0x008 := BitVec.eq_of_toNat_eq (registerAt_eq_params_iff.mp hr)
      have hbytes : bytes = 4 := by simp_all [accessOk_eq_decide]
      rw [hr]
      exact ⟨paramsValue_upper p o e, fun h => absurd h (by simp [hoff, hbytes])⟩
    · rw [readRegister_reorderState o p e a s hr]
      exact ⟨rfl, fun _ => rfl⟩

end ReorderState

/-! ### The answer a step leaves -/

section StepReply

variable {b : Build} {s t : State} {off : BitVec 12} {bytes : Nat} {v : Word}

/-- R80: the answer to a read. -/
theorem stepIn_read_reply (h : stepIn b s = .next t) (he : s.events.head? = some (.read off bytes)) :
    t.reply = some (memRead b off bytes s) := by
  obtain ⟨rest, he⟩ := List.head?_eq_some_iff.mp he
  rw [stepIn, nextStep, he] at h
  cases h
  exact congrArg some (by simp only [memRead, readRegister_events_reply b s rest s.reply])

theorem writeRegister_keeps_reply {r : Register} (h : writeRegister (execIn b) v s r = .next t) : t.reply = s.reply := by
  rcases writeRegister_cases h with ⟨_, hc⟩ | ⟨j, _, rfl⟩ | ⟨c, _, rfl⟩ | ⟨_, rfl⟩
  · rcases commandWrite_cases hc with ⟨_, rfl⟩ | ⟨_, _, rfl⟩ | ⟨_, _, _, rfl⟩ | ⟨_, _, i, _, hx⟩
    · rfl
    · rfl
    · rfl
    · obtain ⟨_, _, _, _, hreply⟩ := execIn_keeps_inputs hx
      exact hreply
  · exact writeKey_reply j v s
  · exact writeDin_reply c v s
  · rfl

/-- R81: the answer to a write comes from its form alone. -/
theorem stepIn_write_reply (h : stepIn b s = .next t) (he : s.events.head? = some (.write off bytes v)) :
    t.reply = some (if accessOk off bytes then writeReply else busError) := by
  obtain ⟨rest, he⟩ := List.head?_eq_some_iff.mp he
  rw [stepIn, nextStep, he] at h
  rcases memWrite_cases h with ⟨ha, rfl⟩ | ⟨ha, hw⟩
  · rw [ha]; rfl
  · rw [ha, writeRegister_keeps_reply hw]; rfl

end StepReply

/-- Settles O9: the other block is in the reordered state, with which the step commutes; the answer to a write does not depend
on the state, and the answers to a read are compared by `memRead_reorderState`. -/
theorem internalOrderIsNotObservable : Obligations.InternalOrderIsNotObservable := by
  intro i1 i2 e s t s' hview hs
  obtain ⟨a, hstep⟩ := stepIn_reorderState i1 i2 e t.reply s
  rw [← hview.eq_reorderState, hs] at hstep
  refine ⟨_, hstep, sameView_reorderState i1 i2 e a s', fun off bytes v he => ?_, fun off bytes he => ?_⟩
  · rw [stepIn_write_reply hs he, stepIn_write_reply hstep (hview.events ▸ he)]
  · obtain ⟨error, v, w, hv, hw, hdata⟩ := memRead_reorderState i1 i2 e t.reply s off bytes
    rw [← hview.eq_reorderState] at hw
    exact ⟨error, v, w, hv ▸ stepIn_read_reply hs he, hw ▸ stepIn_read_reply hstep (hview.events ▸ he), hdata⟩

end Sys2Proof.Machine
end

section
/-! PROOFS for the statements about the command lifecycle (spec/60_exceptions.md): the checks of a CMD write (R332 to R334),
which command a step runs (R333, R335), what every step keeps of the schedules, that no step fails and every run becomes
quiescent (R336, R382), and several instances (R345). -/

namespace Sys2Proof.Machine

/-! ### The schedules: what each operation keeps of them -/

namespace ScheduleInv

variable {b : Build} {s : State}

/-- The invariant does not speak of READY, ERR, KEY, DIN, DOUT_W, the events and the reply. -/
theorem withData (hs : ScheduleInv b s) (ready : Bool) (err : BitVec 4) (key : Words 8) (din doutW : Words 4)
    (e : List Event) (r : Option Reply) :
    ScheduleInv b { s with ready := ready, err := err, key := key, din := din, doutW := doutW, events := e, reply := r } :=
  { hs with }

/-- R333, R334: an accepted ENCRYPT or DECRYPT has its schedule. -/
theorem accept {i : Instr} (hs : ScheduleInv b s)
    (hi : i = .encrypt ∧ s.encValid = true ∨ i = .decrypt ∧ s.decValid = true) :
    ScheduleInv b (Machine.accept (encode i) s) := by
  obtain ⟨rfl, hv⟩ | ⟨rfl, hv⟩ := hi
  · have hd : decode (encode .encrypt) = .command .encrypt := by decide
    exact { hs with
      encrypt_valid := fun _ _ => hv
      decrypt_valid := by simp [hd] }
  · have hd : decode (encode .decrypt) = .command .decrypt := by decide
    exact { hs with
      encrypt_valid := by simp [hd]
      decrypt_valid := fun _ _ => hv }

/-- R334: an accepted SETUP_KEY clears both VALID bits, and is neither ENCRYPT nor DECRYPT. -/
theorem acceptSetup {v : Word} {keybits : BitVec 9} {mode : BitVec 2} (hs : ScheduleInv b s)
    (hv : decode v = .command (.setupKey keybits mode)) : ScheduleInv b (Machine.acceptSetup v s) where
  encrypt_valid := by simp [hv]
  decrypt_valid := by simp [hv]
  nr_established := by simp
  established := fun hnr => by
    obtain ⟨keybits', mode', key, hl, hsched, _, _⟩ := hs.established hnr
    exact ⟨keybits', mode', key, hl, hsched, by simp, by simp⟩

/-- An ended command is no longer in progress. -/
theorem finish (hs : ScheduleInv b s) : ScheduleInv b (Machine.finish s) :=
  { hs with
    encrypt_valid := by simp
    decrypt_valid := by simp }

end ScheduleInv

/-- R211: a SETUP_KEY completion establishes the schedules of the KEY words it finds, whatever stood there before. -/
theorem scheduleInv_setupKeyComplete (b : Build) {keybits : BitVec 9} {mode : BitVec 2} (s : State)
    (hl : setupKeyLegal keybits mode = true) : ScheduleInv b (setupKeyComplete b keybits mode s) where
  encrypt_valid := by simp
  decrypt_valid := by simp
  nr_established := fun _ => by rcases nrOf_cases hl with h | h | h <;> simp [h]
  established := fun _ => ⟨keybits, mode, s.key, hl, ⟨rfl, rfl, rfl⟩, id, id⟩

/-- Every step keeps the schedules' invariant, whatever the block's orders: one case for each thing a step can do. -/
theorem StepEffect.keeps_scheduleInv {b : Build} {s t : State} (h : StepEffect b s t) (hs : ScheduleInv b s) :
    ScheduleInv b t := by
  cases h with
  | keep e r => exact hs.withData s.ready s.err s.key s.din s.doutW e r
  | generate e => exact hs.withData true s.err s.key s.din s.doutW e s.reply
  | reset e => exact (scheduleInv_reset b).withData _ _ _ _ _ e _
  | key e r j v => exact hs.withData s.ready s.err _ s.din s.doutW e r
  | din e r c v => exact hs.withData s.ready s.err s.key _ s.doutW e r
  | reject e r cause => exact hs.withData s.ready _ s.key s.din s.doutW e r
  | acceptSetup e r v keybits mode _ _ _ hd hl =>
    exact (hs.acceptSetup (decode_encode_of_decodeWord hd hl)).withData _ _ _ _ _ e r
  | accept e r v i _ _ _ _ hi => exact (hs.accept hi).withData _ _ _ _ _ e r
  | completeSetup e keybits mode _ _ hl => exact (scheduleInv_setupKeyComplete b s hl).withData _ _ _ _ _ e _
  | completeEncrypt e => exact hs.finish.withData s.ready s.err s.key s.din _ e s.reply
  | completeDecrypt e => exact hs.finish.withData s.ready s.err s.key s.din _ e s.reply

/-- Settles O53: `stepEffect` names everything a step can do, and each of its cases keeps the schedules' invariant. -/
theorem everyStepKeepsTheSchedules : Obligations.EveryStepKeepsTheSchedules := by
  intro s t hs h
  exact (stepEffect_of_step h).keeps_scheduleInv hs

/-! ### The CMD write -/

theorem commandWrite_of_not_ready {s : State} (hr : s.ready = false) (run : Instr → State → Result) (v : Word) :
    commandWrite run v s = .next (reject .notReady s) := by
  simp [commandWrite, hr]

theorem commandWrite_of_command {s : State} {v : Word} {i : Instr} (hr : s.ready = true) (hb : s.busy = false)
    (hd : decodeWord v = some i) (run : Instr → State → Result) : commandWrite run v s = run i s := by
  simp [commandWrite, hr, hb, hd]

/-- Settles O44: one lemma for each check that fails; a legal word is that of its command, which is accepted or lacks its
schedule. -/
theorem commandWriteChecksInOrder : Obligations.CommandWriteChecksInOrder := by
  intro v s
  by_cases hr : s.ready = false
  · rw [if_pos hr]
    exact commandWrite_of_not_ready hr exec v
  rw [if_neg hr]
  rw [Bool.not_eq_false] at hr
  by_cases hb : s.busy = true
  · rw [if_pos hb]
    exact commandWrite_of_busy hr hb exec v
  rw [if_neg hb]
  rw [Bool.not_eq_true] at hb
  cases hv : decode v with
  | illegal => exact commandWrite_of_illegal hr hb exec hv
  | invalid => exact commandWrite_of_invalid hr hb hv
  | command i =>
    obtain ⟨hd, hl⟩ := decode_eq_command_iff.mp hv
    obtain rfl := encode_of_decodeWord hd
    rw [commandWrite_of_command hr hb hd]
    cases i with
    | setupKey keybits mode => exact exec_setupKey_of_legal hr hb hl
    | encrypt =>
      dsimp only
      split
      case isTrue hvalid => exact exec_encrypt_of_not_valid hr hb hvalid
      case isFalse hvalid => exact exec_encrypt_of_valid hr hb (by simpa using hvalid)
    | decrypt =>
      dsimp only
      split
      case isTrue hvalid => exact exec_decrypt_of_not_valid hr hb hvalid
      case isFalse hvalid => exact exec_decrypt_of_valid hr hb (by simpa using hvalid)

/-- A CMD write ends in one of three ways: a rejection, or one of the two accepts of the word as written. -/
theorem commandWrite_rejects_or_accepts (v : Word) (s : State) :
    (∃ cause, commandWrite exec v s = .next (reject cause s))
    ∨ commandWrite exec v s = .next (accept v s) ∨ commandWrite exec v s = .next (acceptSetup v s) := by
  rw [commandWriteChecksInOrder v s]
  split
  · exact .inl ⟨.notReady, rfl⟩
  split
  · exact .inl ⟨.busy, rfl⟩
  split
  · exact .inl ⟨.illegalCmd, rfl⟩
  · exact .inl ⟨.invalidParam, rfl⟩
  · split
    · exact .inl ⟨.noSchedule, rfl⟩
    · exact .inr (.inl rfl)
  · split
    · exact .inl ⟨.noSchedule, rfl⟩
    · exact .inr (.inl rfl)
  · exact .inr (.inr rfl)

/-- R331: the codes of the five causes. -/
theorem rejectCode_cases (cause : RejectCause) :
    rejectCode cause ≠ 0 ∧ (rejectCode cause = 1 ∨ rejectCode cause = 2 ∨ rejectCode cause = 3 ∨ rejectCode cause = 4
      ∨ rejectCode cause = 5) := by
  cases cause <;> decide

/-- Settles O46: the step is the CMD write of the word, which rejects with a code that is not 0 or accepts with ERR = 0. -/
theorem rejectionWritesErrOnly : Obligations.RejectionWritesErrOnly := by
  intro s t v rest he h
  rw [step_write_register (r := .cmd) he rfl, writeRegister] at h
  rcases commandWrite_rejects_or_accepts v { s with events := rest, reply := some ⟨false, 0⟩ } with
    ⟨cause, hc⟩ | hc | hc
  all_goals
    rw [hc] at h
    cases h
  · obtain ⟨hne, hcode⟩ := rejectCode_cases cause
    exact ⟨fun _ => rfl, fun h0 => absurd h0 hne, .inr hcode⟩
  · exact ⟨fun h0 => absurd rfl h0, fun _ => ⟨rfl, rfl, rfl⟩, .inl rfl⟩
  · exact ⟨fun h0 => absurd rfl h0, fun _ => ⟨rfl, rfl, rfl⟩, .inl rfl⟩

/-! ### Which command a step runs -/

theorem completionStep_of_command {s : State} {i : Instr} (hb : s.busy = true) (hd : decode s.cur = .command i)
    (run : Instr → State → Result) : completionStep run s = run i s := by
  simp [completionStep, hb, completeCommand, hd]

/-- The step of the core while the host is silent. -/
theorem step_of_no_event {s : State} (h : s.events = []) : step s = coreStep exec s := by
  simp [step, nextStep, h]

theorem coreStep_of_ready {s : State} (hr : s.ready = true) (run : Instr → State → Result) :
    coreStep run s = completionStep run s := by
  simp [coreStep, hr]

/-- Settles O45: the written word is that of its command, and the completion is performed by an event or by the silent core. -/
theorem stepRunsTheDecodedCommand : Obligations.StepRunsTheDecodedCommand := by
  refine ⟨fun s v i rest he hr hb hd => ?_, fun s i rest he hb hd => step_complete he hb hd, fun s i he hr hb hd => ?_⟩
  · obtain rfl := encode_of_decodeWord hd
    exact step_command_write he hr hb
  · rw [step_of_no_event he, coreStep_of_ready hr, completionStep_of_command hb hd]

/-! ### No step fails, and the silent host's core comes to rest

Each operation answers a next state, and leaves the events still to come as they are. -/

/-- A completion of the legal command in CUR ends it. -/
theorem exec_completes {s : State} {i : Instr} (hb : s.busy = true) (hd : decode s.cur = .command i) :
    ∃ t, exec i s = .next t ∧ t.busy = false ∧ t.ready = s.ready ∧ t.events = s.events := by
  cases i with
  | setupKey keybits mode =>
    have hl := operandsLegal_of_decode hd
    exact ⟨_, setupKeyIn_of_busy Config.build hb hl, rfl, rfl, rfl⟩
  | encrypt => exact ⟨_, exec_encrypt_of_busy hb, rfl, rfl, rfl⟩
  | decrypt => exact ⟨_, exec_decrypt_of_busy hb, rfl, rfl, rfl⟩

/-- R335: after the completion step no command is in progress. -/
theorem completionStep_ends_idle {s : State} (hs : BlockInv s) :
    ∃ t, completionStep exec s = .next t ∧ t.busy = false ∧ t.ready = s.ready ∧ t.events = s.events := by
  cases hb : s.busy with
  | false => exact ⟨s, by simp [completionStep, hb], hb, rfl, rfl⟩
  | true =>
    obtain ⟨i, hd⟩ := hs.cur_legal hb
    rw [completionStep_of_command hb hd]
    exact exec_completes hb hd

theorem writeRegister_next (v : Word) (s : State) (r : Register) :
    ∃ t, writeRegister exec v s r = .next t ∧ t.events = s.events := by
  cases r with
  | cmd =>
    rcases commandWrite_rejects_or_accepts v s with ⟨cause, hc⟩ | hc | hc
    · exact ⟨_, hc, rfl⟩
    · exact ⟨_, hc, rfl⟩
    · exact ⟨_, hc, rfl⟩
  | key j => exact ⟨_, rfl, writeKey_events j v s⟩
  | din c => exact ⟨_, rfl, writeDin_events c v s⟩
  | _ => exact ⟨_, rfl, rfl⟩

theorem memWrite_next (off : BitVec 12) (bytes : Nat) (v : Word) (s : State) :
    ∃ t, memWrite exec off bytes v s = .next t ∧ t.events = s.events := by
  cases ha : accessOk off bytes with
  | false => exact ⟨_, memWrite_of_not_ok ha, rfl⟩
  | true =>
    rw [memWrite_of_ok ha]
    exact writeRegister_next v (answer writeReply s) _

theorem eventStep_next {s : State} (hs : BlockInv s) (e : Event) :
    ∃ t, eventStep Config.build exec s e = .next t ∧ t.events = s.events := by
  cases e with
  | read off bytes => exact ⟨_, rfl, rfl⟩
  | write off bytes v => exact memWrite_next off bytes v s
  | generate => exact ⟨_, rfl, tableGen_events s⟩
  | complete =>
    obtain ⟨t, ht, _, _, he⟩ := completionStep_ends_idle hs
    exact ⟨t, ht, he⟩
  | reset => exact ⟨_, rfl, rfl⟩

/-- A step of a pending event takes that event off the list. -/
theorem step_takes_event {s : State} (hs : BlockInv s) {e : Event} {rest : List Event} (h : s.events = e :: rest) :
    ∃ t, step s = .next t ∧ t.events = rest := by
  have hstep : step s = eventStep Config.build exec { s with events := rest } e := by simp [step, nextStep, h]
  rw [hstep]
  exact eventStep_next (hs.withData s.key s.din s.doutW rest s.reply) e

/-- R382, R383: the step of a silent host's block ends in a quiescent one. By R50(a) a block without its tables has no command
in progress, so that the generation is enough for it. -/
theorem step_of_no_event_ends_quiescent {s : State} (hs : BlockInv s) (h : s.events = []) :
    ∃ t, step s = .next t ∧ Quiescent t ∧ t.events = [] := by
  rw [step_of_no_event h, ← h]
  cases hr : s.ready with
  | false =>
    have hb : s.busy = false := by simpa [hr] using hs.busy_ready
    exact ⟨tableGen s, by simp [coreStep, hr], ⟨tableGen_ready s, (tableGen_busy s).trans hb⟩, tableGen_events s⟩
  | true =>
    rw [coreStep_of_ready hr]
    obtain ⟨t, ht, hb, hready, he⟩ := completionStep_ends_idle hs
    exact ⟨t, ht, ⟨hready.trans hr, hb⟩, he⟩

/-- Settles O54: the step of an event, and that of the core when no event is left, both answer. -/
theorem noStepFails : Obligations.NoStepFails := by
  intro s hs
  cases he : s.events with
  | nil =>
    obtain ⟨t, ht, _⟩ := step_of_no_event_ends_quiescent hs he
    exact ⟨t, ht⟩
  | cons e rest =>
    obtain ⟨t, ht, _⟩ := step_takes_event hs he
    exact ⟨t, ht⟩

/-- Settles O55, by induction on the pending events: each is taken by one step, which keeps the invariants, and the core's own
step is the last. -/
theorem everyRunBecomesQuiescent : Obligations.EveryRunBecomesQuiescent := by
  intro s hs
  generalize he : s.events = es
  induction es generalizing s with
  | nil =>
    obtain ⟨t, ht, hq, he'⟩ := step_of_no_event_ends_quiescent hs he
    exact ⟨t, (core_run_next ht).trans (core_run_zero t), hq, he'⟩
  | cons e rest ih =>
    obtain ⟨u, hu, hrest⟩ := step_takes_event hs he
    obtain ⟨t, ht, hq, he'⟩ := ih u (everyStepKeepsTheInvariants s u hs hu) hrest
    exact ⟨t, (core_run_next hu).trans ht, hq, he'⟩

/-! ### Several instances -/

/-- R345: the step of one of the blocks is that of a block with its parameters, and leaves every other one as it was. -/
theorem instanceStep_effect {k : Nat} {platform after : List Instance} (h : instanceStep k platform = .next after) :
    after.length = platform.length
    ∧ (∀ j, j ≠ k → after[j]? = platform[j]?)
    ∧ ∀ i, platform[k]? = some i →
      ∃ t, stepIn i.build i.state = .next t ∧ after[k]? = some ⟨i.page, i.build, t⟩ := by
  rcases instanceStep_cases h with ⟨hk, rfl⟩ | ⟨i, t, hk, ht, rfl⟩
  · exact ⟨rfl, fun _ _ => rfl, fun i hi => by simp [hk] at hi⟩
  · refine ⟨List.length_set, fun j hj => List.getElem?_set_ne hj.symm, fun i' hi' => ?_⟩
    obtain rfl : i = i' := Option.some.inj (hk.symm.trans hi')
    obtain ⟨hlt, _⟩ := List.getElem?_eq_some_iff.mp hk
    exact ⟨t, ht, List.getElem?_set_self hlt⟩

/-- R71: no address of one page lies in the window at another. -/
theorem windowOffsetFrom_other_page {p q : Nat} (hne : p ≠ q) (off : BitVec 12) :
    windowOffsetFrom (Config.windowBase p) (Config.windowBase q + off.toNat) = none := by
  refine Option.eq_none_iff_forall_ne_some.mpr fun off' h => hne ?_
  have hsame := eq_add_of_windowOffsetFrom h
  have hoff := off.isLt
  have hoff' := off'.isLt
  simp only [Config.windowBase] at hsame
  omega

/-- R71, R345, by induction on the platform: the windows before a block's own are at other pages and do not hold its
addresses. -/
theorem reachedInstance_of_own_window {platform : List Instance} {k : Nat} {i : Instance} (off : BitVec 12)
    (hown : OwnWindows platform) (hk : platform[k]? = some i) :
    reachedInstance platform (instanceBase i + off.toNat) = some (k, off) := by
  induction platform generalizing k with
  | nil => simp at hk
  | cons first rest ih =>
    obtain ⟨hfirst, hrest⟩ := List.nodup_cons.mp hown
    cases k with
    | zero =>
      obtain rfl : first = i := by simpa using hk
      simp [reachedInstance, windowOffsetFrom_add]
    | succ k =>
      rw [List.getElem?_cons_succ] at hk
      have hne : first.page ≠ i.page := fun h =>
        hfirst (h ▸ List.mem_map_of_mem (List.mem_of_getElem? hk))
      have hmiss : windowOffsetFrom (instanceBase first) (instanceBase i + off.toNat) = none :=
        windowOffsetFrom_other_page hne off
      simp [reachedInstance, hmiss, ih hrest hk]

/-- R71: an address that reaches a block lies in its window, at the offset it reaches there. -/
theorem eq_add_of_reachedInstance {platform : List Instance} {A k : Nat} {off : BitVec 12}
    (h : reachedInstance platform A = some (k, off)) :
    ∃ i, platform[k]? = some i ∧ A = instanceBase i + off.toNat := by
  induction platform generalizing k with
  | nil => cases h
  | cons first rest ih =>
    unfold reachedInstance at h
    split at h
    case h_1 _ hoff =>
      cases h
      exact ⟨first, rfl, eq_add_of_windowOffsetFrom hoff⟩
    case h_2 =>
      obtain ⟨⟨k', off'⟩, hrest, heq⟩ := Option.map_eq_some_iff.mp h
      cases heq
      exact ih hrest

theorem hostAccess_of_no_window {platform : List Instance} {A : Nat} (access : BitVec 12 → Event)
    (h : reachedInstance platform A = none) : hostAccess A access platform = platform := by
  simp [hostAccess, h]

theorem hostAccess_of_reached {platform : List Instance} {A k : Nat} {off : BitVec 12} (access : BitVec 12 → Event)
    (h : reachedInstance platform A = some (k, off)) :
    hostAccess A access platform = platform.modify k (pushEvent (access off)) := by
  simp [hostAccess, h]

/-- Settles O60: the step of one block, its window both ways, and the access as an event of the block it reaches. -/
theorem instancesAreIndependent : Obligations.InstancesAreIndependent := by
  refine ⟨fun k platform after => instanceStep_effect,
    fun platform k i off hown hk => reachedInstance_of_own_window off hown hk,
    fun platform A k off => eq_add_of_reachedInstance,
    fun platform A access => ⟨hostAccess_of_no_window access, fun k off h => ?_⟩⟩
  rw [hostAccess_of_reached access h]
  refine ⟨fun j hj => List.getElem?_modify_ne _ _ hj.symm, fun i hi => ?_⟩
  rw [List.getElem?_modify_eq, hi]
  rfl

end Sys2Proof.Machine
end

section
/-! PROOF. A quiescent block rests (spec/70_reset_and_hazards.md R383): neither of the core's own steps, the generation and the
completion, changes it. -/

namespace Sys2Proof.Machine

/-- The generation step is not enabled once the tables are there (R175). -/
theorem tableGen_of_ready {s : State} (hr : s.ready = true) : tableGen s = s := by
  simp [tableGen, hr]

/-- The completion step is not enabled while no command is in progress (R335). -/
theorem completionStep_of_idle {s : State} (hb : s.busy = false) (run : Instr → State → Result) :
    completionStep run s = .next s := by
  simp [completionStep, hb]

theorem step_of_event {s : State} {e : Event} {rest : List Event} (h : s.events = e :: rest) :
    step s = eventStep Config.build exec { s with events := rest } e := by
  simp [step, nextStep, h]

/-- Settles O49: with READY = 1 the core's step is the completion, which is not enabled; nor is the step of either event, on the
block with that event taken. -/
theorem quiescentBlockRests : Obligations.QuiescentBlockRests := by
  rintro s rest ⟨hr, hb⟩
  refine ⟨fun h => ?_, fun h => ?_, fun h => ?_⟩
  · rw [step_of_no_event h, coreStep_of_ready hr, completionStep_of_idle hb]
  · have hready : State.ready { s with events := rest } = true := hr
    rw [step_of_event h, eventStep, tableGen_of_ready hready]
  · have hidle : State.busy { s with events := rest } = false := hb
    rw [step_of_event h, eventStep, completionStep_of_idle hidle]

end Sys2Proof.Machine
end
